-- ==== Sys2Proof/Word.lean ====
section
/-! DEFINITION. The words of the engine: wire bytes, 16-bit values, operation words and the packed frame output. -/

namespace Sys2Proof

/-- A wire byte, `BYTE_W` = 8 bits, unsigned (spec/00_scope.md R7). -/
abbrev Byte := BitVec 8

/-- A 16-bit unsigned value: a concentration (`CONC_W`) or a range (spec/00_scope.md R7). -/
abbrev Half := BitVec 16

/-- An operation word `OPW`, 19 bits (spec/30_encoding.md R58). -/
abbrev OpWord := BitVec 19

/-- The output `OUT.frame`, 72 bits (spec/30_encoding.md R60). -/
abbrev PackedFrame := BitVec 72

/-- `zext_16(b)`: a byte widened to 16 bits with zeros (spec/00_scope.md R8). -/
def zext16 (b : Byte) : Half := b.setWidth 16

end Sys2Proof
end

