-- ==== Sys2Proof/Syntax.lean ====
section
/-! DEFINITION. The engine's operations, one constructor per row of spec/opcode_table.json. -/

namespace Sys2Proof

/-- An operation with all the bits of its word: the operand it uses and, under `rsv` or `arg`, the
operand bits it ignores (spec/30_encoding.md R59, R61, R63; the bits are kept so that no bit of an
encoding is lost, log entry 6). -/
inductive Instr where
  /-- `CONSUME byte`, code 0. `rsv` is `OPW[15:8]`. -/
  | consume (byte : Byte) (rsv : Byte)
  /-- `ENC_READ`, code 1. `rsv` is `OPW[15:0]`. -/
  | encRead (rsv : Half)
  /-- `ENC_ABC_OFF`, code 2. `rsv` is `OPW[15:0]`. -/
  | encAbcOff (rsv : Half)
  /-- `ENC_SET_RANGE range`, code 3. -/
  | encSetRange (range : Half)
  /-- `INIT`, code 4. `rsv` is `OPW[15:0]`. -/
  | init (rsv : Half)
  /-- The reserved code 5 (R62). -/
  | reserved5 (arg : Half)
  /-- The reserved code 6 (R62). -/
  | reserved6 (arg : Half)
  /-- The reserved code 7 (R62). -/
  | reserved7 (arg : Half)
deriving DecidableEq, Repr

end Sys2Proof
end

