-- ==== Sys2Proof/Decode.lean ====
section
/-! DEFINITION. Decoding and encoding of operation words (spec/30_encoding.md R58 to R63, R67, R68). -/

namespace Sys2Proof

/-- The field `op = OPW[18:16]` (R58). -/
def opField (w : OpWord) : BitVec 3 := w.extractLsb' 16 3

/-- The field `arg = OPW[15:0]` (R58). -/
def argField (w : OpWord) : Half := w.extractLsb' 0 16

/-- The byte operand of CONSUME, `OPW[7:0]` (R61). -/
def byteField (w : OpWord) : Byte := w.extractLsb' 0 8

/-- The reserved operand bits of CONSUME, `OPW[15:8]` (R63). -/
def highByteField (w : OpWord) : Byte := w.extractLsb' 8 8

/-- `decode(OPW) = opmap[OPW[18:16]]`, with the operand of R61. It is total and refuses no 19-bit
word (R67): the code left at the end of the chain is 7. -/
def decode (w : OpWord) : Instr :=
  if opField w = 0 then .consume (byteField w) (highByteField w)
  else if opField w = 1 then .encRead (argField w)
  else if opField w = 2 then .encAbcOff (argField w)
  else if opField w = 3 then .encSetRange (argField w)
  else if opField w = 4 then .init (argField w)
  else if opField w = 5 then .reserved5 (argField w)
  else if opField w = 6 then .reserved6 (argField w)
  else .reserved7 (argField w)

/-- The operation code of an operation (R59). -/
def opcode : Instr → BitVec 3
  | .consume _ _ => 0
  | .encRead _ => 1
  | .encAbcOff _ => 2
  | .encSetRange _ => 3
  | .init _ => 4
  | .reserved5 _ => 5
  | .reserved6 _ => 6
  | .reserved7 _ => 7

/-- The 16 operand bits of an operation (R58, R61). -/
def operandBits : Instr → Half
  | .consume byte rsv => rsv ++ byte
  | .encRead rsv => rsv
  | .encAbcOff rsv => rsv
  | .encSetRange range => range
  | .init rsv => rsv
  | .reserved5 arg => arg
  | .reserved6 arg => arg
  | .reserved7 arg => arg

/-- The operation word of an operation: `op` in the more significant position (R58). -/
def encode (i : Instr) : OpWord := opcode i ++ operandBits i

/-- Why a number is no operation word. -/
inductive NotAWord where
  /-- It has a bit above bit 18, which the operation port does not have (R58). -/
  | widerThanPort
deriving DecidableEq, Repr

/-- The operation word that a number writes, if the port can carry it (R58, log entry 15). -/
def toOpWord (n : Nat) : Except NotAWord OpWord :=
  if n < 2 ^ 19 then .ok (BitVec.ofNat 19 n) else .error .widerThanPort

/-- The operation word of a row of spec/opcode_table.json whose `nbits` low bits are those of `w`. -/
def tableOpWord (nbits w : Nat) : Option OpWord :=
  match toOpWord (w % 2 ^ nbits) with
  | .ok word => some word
  | .error _ => none

/-- The operation the decoder reads from a word numbered as spec/opcode_table.json numbers it. -/
def decodeTableWord (nbits w : Nat) : Option Instr := (tableOpWord nbits w).map decode

end Sys2Proof
end

