-- ==== Sys2Proof/Config.lean ====
section
/-! DEFINITION. The parameters the spec fixes for the engine (spec/00_scope.md R7).
The spec leaves no value of any operation open, so there is no free value here. -/

namespace Sys2Proof.Config

/-- `SYNC`: the byte that starts a frame (R7). -/
def sync : Byte := 0xFF

/-- `ADDR`: the address byte the codec emits (R7). -/
def addr : Byte := 0x01

/-- `CMD_READING` (R7). -/
def cmdReading : Byte := 0x86

/-- `CMD_ABC_OFF` (R7). -/
def cmdAbcOff : Byte := 0x79

/-- `CMD_SET_RANGE` (R7). -/
def cmdSetRange : Byte := 0x99

/-- `FRAME_LEN`: bytes in a frame (R7). -/
def frameLen : Nat := 9

/-- `DATA_LEN`: data bytes in a frame, at offsets 3..7 (R7). -/
def dataLen : Nat := 5

/-- `VALID_RANGES` (R7), the three decimal values of spec/41_codec.md R98. -/
def validRanges : List Half := [2000, 5000, 10000]

end Sys2Proof.Config
end

