-- ==== Sys2Proof/Machine/State.lean ====
section
/-! DEFINITION. The engine's state: the registers of spec/10_state.md R13, the result outputs of the
last step (spec/30_encoding.md R60) and the operation port with the reset input. -/

namespace Sys2Proof.Machine

/-- The values of `POS`, named by the role of the next byte (spec/10_state.md R14). The codes 9..15
have no value here (R15; log entry 4). -/
inductive FramePos where
  /-- 0: candidate sync byte -/
  | sync
  /-- 1: address byte -/
  | address
  /-- 2: command byte -/
  | command
  /-- 3: data byte 0 -/
  | data0
  /-- 4: data byte 1 -/
  | data1
  /-- 5: data byte 2 -/
  | data2
  /-- 6: data byte 3 -/
  | data3
  /-- 7: data byte 4 -/
  | data4
  /-- 8: checksum byte -/
  | checksum
deriving DecidableEq, Repr

/-- `PacketKind`, "a closed tag" (spec/30_encoding.md R57; log entry 5). -/
inductive PacketKind where
  | incomplete
  | reading
  | abcOff
  | setRange
  | unrecognized
deriving DecidableEq, Repr

/-- The values of `OUT.status` (spec/30_encoding.md R64; log entry 5). -/
inductive Status where
  | ok
  | invalidRange
  | illegalOperation
deriving DecidableEq, Repr

/-- A 9-byte wire frame by its fields, offsets 0 to 8 in this order (spec/30_encoding.md R51, R52). -/
structure Frame where
  sync     : Byte
  addr     : Byte
  cmd      : Byte
  data0    : Byte
  data1    : Byte
  data2    : Byte
  data3    : Byte
  data4    : Byte
  checksum : Byte
deriving DecidableEq, Repr

/-- The registers, the engine's whole state (spec/10_state.md R13). -/
structure Regs where
  /-- `POS` (R14) -/
  pos       : FramePos
  /-- `CKSUM` (R16) -/
  cksum     : Byte
  /-- `KIND_STG` (R17) -/
  kindStg   : PacketKind
  /-- `DATA0` (R18) -/
  data0     : Byte
  /-- `CONC_STG` (R19) -/
  concStg   : Half
  /-- `LAST_CONC` (R20) -/
  lastConc  : Half
  /-- `LAST_VALID` (R21) -/
  lastValid : Bool
deriving DecidableEq, Repr

/-- The result outputs of one step (spec/30_encoding.md R60). -/
structure Result where
  /-- `OUT.kind` -/
  kind       : PacketKind
  /-- `OUT.conc` -/
  conc       : Half
  /-- `OUT.conc_valid` -/
  concValid  : Bool
  /-- `OUT.status` -/
  status     : Status
  /-- `OUT.frame_valid` -/
  frameValid : Bool
  /-- `OUT.frame` -/
  frame      : PackedFrame
deriving DecidableEq, Repr

/-- What the environment presents in one step: the reset input (spec/42_control.md R107) and at most
one operation word (spec/20_memory.md R47; log entry 10). -/
structure PortInput where
  rst : Bool
  opw : Option OpWord
deriving DecidableEq, Repr

/-- The engine and its boundary. -/
structure State where
  /-- the registers of spec/10_state.md R13 -/
  regs : Regs
  /-- the outputs driven in the last step; `none` when no operation and no reset took place in it
  (spec/10_state.md R25; log entries 2 and 3) -/
  out  : Option Result
  /-- what the environment presents from now on, one entry a step (spec/20_memory.md R44; log entry 1) -/
  port : List PortInput
deriving DecidableEq, Repr

/-- The engine "never traps, halts or faults" (spec/60_exceptions.md R113): there is no fault, so
nothing raises one. Safe: the type has no value. -/
inductive Fault where
deriving DecidableEq, Repr

/-- Why a step has no meaning. -/
inductive Refusal where
  /-- Raised by an arm of `exec` whose operation has no meaning yet. No arm raises it: every
  operation has its meaning. Safe: the machine stops. -/
  | notModelled (mnemonic : String)
deriving DecidableEq, Repr

/-- The reset values of spec/10_state.md R28. -/
def Regs.reset : Regs where
  pos := .sync
  cksum := 0x00
  kindStg := .incomplete
  data0 := 0x00
  concStg := 0x0000
  lastConc := 0x0000
  lastValid := false

/-- The outputs of a reset step (spec/42_control.md R107 with R106). -/
def Result.reset : Result where
  kind := .incomplete
  conc := 0x0000
  concValid := false
  status := .ok
  frameValid := false
  frame := 0

/-- The engine right after reset (spec/70_reset_and_hazards.md R138), with nothing presented yet
(log entries 1 and 16). -/
def State.reset : State where
  regs := Regs.reset
  out := some Result.reset
  port := []

end Sys2Proof.Machine
end

