-- ==== Sys2Proof/Machine/Flags.lean ====
section
/-! DEFINITION. The checks the engine computes: command classification and checksums. The engine has
no status flags and no condition codes (spec/10_state.md R25). -/

namespace Sys2Proof.Machine

/-- `classify(b)`, the command-byte table (spec/30_encoding.md R55). -/
def classify (b : Byte) : PacketKind :=
  if b = Config.cmdReading then .reading
  else if b = Config.cmdAbcOff then .abcOff
  else if b = Config.cmdSetRange then .setRange
  else .unrecognized

/-- `(CKSUM + b) mod 256` (spec/40_parser.md R74). -/
def foldByte (ck b : Byte) : Byte := ck + b

/-- `s = (F[1] + ... + F[7]) mod 256` (spec/30_encoding.md R53). -/
def Frame.bodySum (F : Frame) : Byte :=
  F.addr + F.cmd + F.data0 + F.data1 + F.data2 + F.data3 + F.data4

/-- `ck(F) = (0xFF - s + 1) mod 256` (spec/30_encoding.md R53). It reads no checksum and no sync byte. -/
def Frame.ck (F : Frame) : Byte := 0xFF - F.bodySum + 1

/-- The numeric code of a kind on `OUT.kind` and in `KIND_STG` (spec/30_encoding.md R57). -/
def PacketKind.code : PacketKind → BitVec 3
  | .incomplete => 0
  | .reading => 1
  | .abcOff => 2
  | .setRange => 3
  | .unrecognized => 4

/-- The numeric code on `OUT.status` (spec/30_encoding.md R64). -/
def Status.code : Status → BitVec 2
  | .ok => 0
  | .invalidRange => 1
  | .illegalOperation => 2

end Sys2Proof.Machine
end

