-- ==== Sys2Proof/Machine/Operands.lean ====
section
/-! DEFINITION. How operands are assembled and split: the range check, the two halves of a range, the
16-bit concentration (spec/30_encoding.md R61, spec/20_memory.md R34, R37). -/

namespace Sys2Proof.Machine

/-- The range check: exact equality with one of 2000, 5000 and 10000 (spec/41_codec.md R98). -/
def rangeIsValid (r : Half) : Bool := Config.validRanges.contains r

/-- `r[15:8]`, the byte at offset 3 (spec/41_codec.md R99). -/
def highByte (r : Half) : Byte := r.extractLsb' 8 8

/-- `r[7:0]`, the byte at offset 4 (spec/41_codec.md R99). -/
def lowByte (r : Half) : Byte := r.extractLsb' 0 8

/-- `256 * zext_16(d0) + zext_16(d1)` (spec/40_parser.md R71, R77). -/
def concentration (d0 d1 : Byte) : Half := 256 * zext16 d0 + zext16 d1

end Sys2Proof.Machine
end

