-- ==== Sys2Proof/Machine/Ops.lean ====
section
/-! DEFINITION. The operations on registers, outputs, frames and the port that the meanings share.
The engine has no trap entry and no trap return (spec/60_exceptions.md R120, R121): an error is the
status that `State.complete` drives. -/

namespace Sys2Proof.Machine

/-! ### Positions -/

/-- The number `POS` holds (spec/10_state.md R14). -/
def FramePos.index : FramePos → Nat
  | .sync => 0
  | .address => 1
  | .command => 2
  | .data0 => 3
  | .data1 => 4
  | .data2 => 5
  | .data3 => 6
  | .data4 => 7
  | .checksum => 8

/-- The 4-bit code of `POS` (spec/10_state.md R13). -/
def FramePos.code (p : FramePos) : BitVec 4 := BitVec.ofNat 4 p.index

/-- The position of the next offset; after the last one, Sync (spec/40_parser.md R78, R79). -/
def FramePos.advance : FramePos → FramePos
  | .sync => .address
  | .address => .command
  | .command => .data0
  | .data0 => .data1
  | .data1 => .data2
  | .data2 => .data3
  | .data3 => .data4
  | .data4 => .checksum
  | .checksum => .sync

/-! ### Register writes -/

/-- `POS <- p` -/
def Regs.setPos (r : Regs) (p : FramePos) : Regs := { r with pos := p }
/-- `CKSUM <- c` -/
def Regs.setCksum (r : Regs) (c : Byte) : Regs := { r with cksum := c }
/-- `KIND_STG <- k` -/
def Regs.setKindStg (r : Regs) (k : PacketKind) : Regs := { r with kindStg := k }
/-- `DATA0 <- b` -/
def Regs.setData0 (r : Regs) (b : Byte) : Regs := { r with data0 := b }
/-- `CONC_STG <- v` -/
def Regs.setConcStg (r : Regs) (v : Half) : Regs := { r with concStg := v }
/-- `LAST_CONC <- v; LAST_VALID <- 1`, the one write of a decoded reading (spec/10_state.md R20, R21). -/
def Regs.setReading (r : Regs) (v : Half) : Regs := { r with lastConc := v, lastValid := true }

/-- `CKSUM <- (CKSUM + b) mod 256`, done at every position from 1 to 8 (spec/40_parser.md R74). -/
def Regs.fold (r : Regs) (b : Byte) : Regs := r.setCksum (foldByte r.cksum b)

/-! ### Frames -/

/-- The bytes of a frame in transmission order, offset 0 first (spec/20_memory.md R33). -/
def Frame.bytes (F : Frame) : List Byte :=
  [F.sync, F.addr, F.cmd, F.data0, F.data1, F.data2, F.data3, F.data4, F.checksum]

/-- `pack(F)`: `F[k]` at bits `[8k+7:8k]` (spec/20_memory.md R35). -/
def Frame.pack (F : Frame) : PackedFrame :=
  F.checksum ++ F.data4 ++ F.data3 ++ F.data2 ++ F.data1 ++ F.data0 ++ F.cmd ++ F.addr ++ F.sync

/-- The byte at offset `k` of a packed frame, bits `[8k+7:8k]` (spec/20_memory.md R35). -/
def packedByte (v : PackedFrame) (k : Nat) : Byte := v.extractLsb' (8 * k) 8

/-- The frame builder `build(cmd, d0, d1, d2, d3, d4)` (spec/41_codec.md R92). -/
def buildFrame (cmd d0 d1 d2 d3 d4 : Byte) : Frame :=
  let F : Frame :=
    { sync := Config.sync, addr := Config.addr, cmd := cmd, data0 := d0, data1 := d1,
      data2 := d2, data3 := d3, data4 := d4, checksum := 0 }
  { F with checksum := F.ck }

/-! ### Results -/

/-- The outputs of an operation that leaves the registers `r`: `OUT.conc` and `OUT.conc_valid` show
them, and without a frame `OUT.frame` is zero (spec/30_encoding.md R60). -/
def resultOf (r : Regs) (kind : PacketKind) (status : Status) (frame : Option Frame) : Result where
  kind := kind
  conc := r.lastConc
  concValid := r.lastValid
  status := status
  frameValid := frame.isSome
  frame := match frame with
    | some F => F.pack
    | none => 0

/-- The end of an operation: its register writes land together and its outputs are driven
(spec/00_scope.md R9, spec/20_memory.md R40, spec/30_encoding.md R60). -/
def State.complete (s : State) (r : Regs) (kind : PacketKind) (status : Status)
    (frame : Option Frame) : State :=
  { s with regs := r, out := some (resultOf r kind status frame) }

/-- The channel-open state of INIT and of the reset input, with its outputs (spec/42_control.md R106,
R107: "A reset and an INIT have the same effect"). -/
def State.channelOpen (s : State) : State := s.complete Regs.reset .incomplete .ok none

/-- An operation with a reserved code: no register changes and the status is `IllegalOperation`
(spec/60_exceptions.md R117). -/
def State.illegal (s : State) : State := s.complete s.regs .incomplete .illegalOperation none

/-- A step in which nothing is presented: the registers are held and no outputs are driven
(spec/60_exceptions.md R129; log entry 3). -/
def State.idle (s : State) : State := { s with out := none }

/-- `OUT.conc` shows `LAST_CONC` at all times (spec/10_state.md R20). -/
def State.outConc (s : State) : Half := s.regs.lastConc

/-- `OUT.conc_valid` shows `LAST_VALID` at all times (spec/10_state.md R21). -/
def State.outConcValid (s : State) : Bool := s.regs.lastValid

/-! ### The port -/

/-- An operation word presented in a step without reset. -/
def presentWord (w : OpWord) : PortInput := { rst := false, opw := some w }

/-- A step with the reset input asserted and no operation presented. -/
def presentReset : PortInput := { rst := true, opw := none }

/-- A step in which the environment presents nothing. -/
def presentNothing : PortInput := { rst := false, opw := none }

/-- The environment presents `i` next, before anything already waiting. -/
def State.present (s : State) (i : PortInput) : State := { s with port := i :: s.port }

end Sys2Proof.Machine
end

