-- ==== Sys2Proof/Machine/Codec.lean ====
section
/-! DEFINITION. The Frame Codec: ENC_READ, ENC_ABC_OFF, ENC_SET_RANGE (spec/41_codec.md R91 to R99). -/

namespace Sys2Proof.Machine

/-- The fixed request-reading frame (R93). -/
def requestReadingFrame : Frame := ⟨0xFF, 0x01, 0x86, 0x00, 0x00, 0x00, 0x00, 0x00, 0x79⟩

/-- The fixed disable-ABC frame (R95). -/
def disableAbcFrame : Frame := ⟨0xFF, 0x01, 0x79, 0x00, 0x00, 0x00, 0x00, 0x00, 0x86⟩

/-- The set-range frame of a range: big-endian at offsets 3 and 4 (R97, R99). -/
def setRangeFrame (r : Half) : Frame :=
  buildFrame Config.cmdSetRange (highByte r) (lowByte r) 0x00 0x00 0x00

/-- ENC_READ (R93). -/
def execEncRead (s : State) : Host.Outcome State Fault Refusal :=
  .next (s.complete s.regs .incomplete .ok (some requestReadingFrame))

/-- ENC_ABC_OFF (R95). -/
def execEncAbcOff (s : State) : Host.Outcome State Fault Refusal :=
  .next (s.complete s.regs .incomplete .ok (some disableAbcFrame))

/-- ENC_SET_RANGE (R97, R98). -/
def execEncSetRange (r : Half) (s : State) : Host.Outcome State Fault Refusal :=
  if rangeIsValid r then .next (s.complete s.regs .incomplete .ok (some (setRangeFrame r)))
  else .next (s.complete s.regs .incomplete .invalidRange none)

end Sys2Proof.Machine
end

