-- ==== Sys2Proof/Machine/Control.lean ====
section
/-! DEFINITION. INIT (spec/42_control.md R106), the reset input (R107) and the reserved operation
codes (spec/60_exceptions.md R117). -/

namespace Sys2Proof.Machine

/-- INIT (R106). -/
def execInit (s : State) : Host.Outcome State Fault Refusal := .next s.channelOpen

/-- A step with the reset input asserted (R107). -/
def resetStep (s : State) : Host.Outcome State Fault Refusal := .next s.channelOpen

/-- The reserved code 5 (R117; log entry 7). -/
def execReserved5 (s : State) : Host.Outcome State Fault Refusal := .next s.illegal

/-- The reserved code 6 (R117; log entry 7). -/
def execReserved6 (s : State) : Host.Outcome State Fault Refusal := .next s.illegal

/-- The reserved code 7 (R117; log entry 7). -/
def execReserved7 (s : State) : Host.Outcome State Fault Refusal := .next s.illegal

end Sys2Proof.Machine
end

