-- ==== Sys2Proof/Machine/Parser.lean ====
section
/-! DEFINITION. The Frame Parser: CONSUME, position by position (spec/40_parser.md R71 to R82). -/

namespace Sys2Proof.Machine

/-- `POS = 0`: 0xFF starts a frame, any other byte is discarded (R72). -/
def consumeAtSync (b : Byte) (r : Regs) : Regs :=
  if b = Config.sync then (r.setCksum 0x00).setPos .address else r.setPos .sync

/-- `POS = 1`: the address is folded and not compared (R73). -/
def consumeAtAddress (b : Byte) (r : Regs) : Regs := (r.fold b).setPos .command

/-- `POS = 2`: the command is classified and the kind staged (R75). -/
def consumeAtCommand (b : Byte) (r : Regs) : Regs :=
  ((r.fold b).setKindStg (classify b)).setPos .data0

/-- `POS = 3`: the high byte is kept (R76). -/
def consumeAtData0 (b : Byte) (r : Regs) : Regs := ((r.fold b).setData0 b).setPos .data1

/-- `POS = 4`: the concentration of a `Reading` frame is staged (R77). -/
def consumeAtData1 (b : Byte) (r : Regs) : Regs :=
  (if r.kindStg = .reading then (r.fold b).setConcStg (concentration r.data0 b)
   else r.fold b).setPos .data2

/-- `POS = 5, 6, 7`: folded only (R78). -/
def consumeAtPadding (b : Byte) (r : Regs) : Regs := (r.fold b).setPos r.pos.advance

/-- The checksum byte `b` closes a valid frame: `(CKSUM + b) mod 256 = 0` (R79). -/
def closesValidFrame (b : Byte) (r : Regs) : Bool := foldByte r.cksum b == 0

/-- `POS = 8`: the parser returns to Sync; a valid `Reading` updates the last known concentration
(R79, R80, R81). -/
def consumeAtChecksum (b : Byte) (r : Regs) : Regs :=
  (if closesValidFrame b r ∧ r.kindStg = .reading then (r.fold b).setReading r.concStg
   else r.fold b).setPos .sync

/-- The registers after CONSUME (R71). -/
def consumeRegs (b : Byte) (r : Regs) : Regs :=
  match r.pos with
  | .sync => consumeAtSync b r
  | .address => consumeAtAddress b r
  | .command => consumeAtCommand b r
  | .data0 => consumeAtData0 b r
  | .data1 => consumeAtData1 b r
  | .data2 => consumeAtPadding b r
  | .data3 => consumeAtPadding b r
  | .data4 => consumeAtPadding b r
  | .checksum => consumeAtChecksum b r

/-- `OUT.kind` of CONSUME: the staged kind on the checksum byte of a valid frame, else `Incomplete`
(R80, R81, R82). -/
def consumeKind (b : Byte) (r : Regs) : PacketKind :=
  if r.pos = .checksum ∧ closesValidFrame b r then r.kindStg else .incomplete

/-- CONSUME (R71). -/
def execConsume (b : Byte) (s : State) : Host.Outcome State Fault Refusal :=
  .next (s.complete (consumeRegs b s.regs) (consumeKind b s.regs) .ok none)

end Sys2Proof.Machine
end

