-- ==== Sys2Proof/Machine/Dispatch.lean ====
section
/-! DEFINITION. One arm per operation; the ignored operand bits (spec/30_encoding.md R63) reach no meaning. -/

namespace Sys2Proof.Machine

def exec (i : Instr) (s : State) : Host.Outcome State Fault Refusal :=
  match i with
  | .consume byte _ => Sys2Proof.Machine.execConsume byte s
  | .encRead _ => Sys2Proof.Machine.execEncRead s
  | .encAbcOff _ => Sys2Proof.Machine.execEncAbcOff s
  | .encSetRange range => Sys2Proof.Machine.execEncSetRange range s
  | .init _ => Sys2Proof.Machine.execInit s
  | .reserved5 _ => Sys2Proof.Machine.execReserved5 s
  | .reserved6 _ => Sys2Proof.Machine.execReserved6 s
  | .reserved7 _ => Sys2Proof.Machine.execReserved7 s

end Sys2Proof.Machine
end

