-- ==== Sys2Proof/Machine/Step.lean ====
section
/-! DEFINITION. One step of the engine: it takes what the environment presents next. A reset wins over
an operation presented with it (spec/42_control.md R107, spec/60_exceptions.md R119). -/

namespace Sys2Proof.Machine

/-- The step in which `i` is presented. -/
def stepOn (i : PortInput) (s : State) : Host.Outcome State Fault Refusal :=
  if i.rst then resetStep s
  else match i.opw with
    | some w => exec (decode w) s
    | none => .next s.idle

/-- One step. With nothing left to present, the engine holds its registers (spec/60_exceptions.md R129,
spec/70_reset_and_hazards.md R147). -/
def step (s : State) : Host.Outcome State Fault Refusal :=
  match s.port with
  | [] => .next s.idle
  | i :: rest => stepOn i { s with port := rest }

/-- `s` with the operation word of an opcode-table row presented next (log entries 1 and 15). -/
def State.withFetchWord (s : State) (nbits w : Nat) : State :=
  match tableOpWord nbits w with
  | some word => s.present (presentWord word)
  | none => s

end Sys2Proof.Machine
end

