-- ==== Sys2Proof/Machine/Run.lean ====
section
/-! DEFINITION. Runs and what they show (spec/70_reset_and_hazards.md R147), and the pseudo-operations
FEED, FEED_FRAME and SEND (spec/30_encoding.md R69, R70). -/

namespace Sys2Proof.Machine

/-- The run that presents `inputs` one after the other: the outputs of every step and the final state
(R147). -/
def observe : List PortInput → State → Host.Outcome (List (Option Result) × State) Fault Refusal
  | [], s => .next ([], s)
  | i :: rest, s =>
    match step (s.present i) with
    | .fault f => .fault f
    | .refused r => .refused r
    | .next s' =>
      match observe rest s' with
      | .fault f => .fault f
      | .refused r => .refused r
      | .next (outs, t) => .next (s'.out :: outs, t)

/-- `FEED b0, ..., bn`: a CONSUME of each byte in order (R69). -/
def feed (bs : List Byte) : List PortInput := bs.map fun b => presentWord (encode (.consume b 0))

/-- `FEED_FRAME F`: `FEED F[0], ..., F[8]` (R69). -/
def feedFrame (F : Frame) : List PortInput := feed F.bytes

/-- The result of FEED: the list of `OUT.kind` values (R69). -/
def kindsOf (outs : List (Option Result)) : List (Option PacketKind) := outs.map fun o => o.map Result.kind

/-- `SEND`: the nine bytes of `OUT.frame` in offset order, when there is a frame; nothing is written
otherwise (R70; spec/70_reset_and_hazards.md R135). -/
def sendBytes (r : Result) : List Byte :=
  if r.frameValid then (List.range Config.frameLen).map (packedByte r.frame) else []

end Sys2Proof.Machine
end

