-- ==== Sys2Proof/Safety.lean ====
section
/-! DEFINITION. What counts as a safe run: the invariant of the engine's registers and outputs, and the
terms the statements use. -/

namespace Sys2Proof.Machine

/-- The registers a run can hold.
- From the command byte on, `KIND_STG` holds one of the four kinds of a frame (spec/10_state.md R17).
- `CKSUM` is 0 right after a sync byte (R16).
- From data byte 1 on, a `Reading` frame's `CONC_STG` has the byte kept in `DATA0` as its high byte
  (spec/40_parser.md R77).
- Before any reading is decoded, `LAST_CONC` still holds its reset value (R20, R21, R28). -/
def Regs.Inv (r : Regs) : Prop :=
  (3 ≤ r.pos.index → r.kindStg ≠ .incomplete) ∧
  (r.pos = .address → r.cksum = 0) ∧
  (5 ≤ r.pos.index → r.kindStg = .reading → r.concStg.toNat / 256 = r.data0.toNat) ∧
  (r.lastValid = false → r.lastConc = 0)

/-- Outputs that one step can drive (spec/30_encoding.md R60).
- Without a frame `OUT.frame` is zero.
- An error status comes with no frame and with the kind `Incomplete`.
- A frame comes with status OK and the kind `Incomplete`; it starts with 0xFF and 0x01 and its
  offsets 1 to 8 sum to 0 modulo 256 (spec/41_codec.md R92, R102). -/
def Result.Inv (o : Result) : Prop :=
  (o.frameValid = false → o.frame = 0) ∧
  (o.status ≠ .ok → o.frameValid = false ∧ o.kind = .incomplete) ∧
  (o.frameValid = true → o.status = .ok ∧ o.kind = .incomplete ∧
    packedByte o.frame 0 = 0xFF ∧ packedByte o.frame 1 = 0x01 ∧
    ((List.range 8).map fun k => (packedByte o.frame (k + 1)).toNat).sum % 256 = 0)

/-- The invariant of the machine: the registers are ones a run can hold, and the outputs of the last
step are ones a step can drive, show `LAST_CONC` and `LAST_VALID`, and report a packet only when the
parser is back at Sync, a `Reading` only when `LAST_VALID` is set (spec/40_parser.md R79, R80). -/
def State.Inv (s : State) : Prop :=
  s.regs.Inv ∧
  ∀ o, s.out = some o →
    o.Inv ∧ o.conc = s.regs.lastConc ∧ o.concValid = s.regs.lastValid ∧
    (o.kind ≠ .incomplete → s.regs.pos = .sync) ∧
    (o.kind = .reading → s.regs.lastValid = true)

/-- The outputs of a CONSUME that leaves the registers `r` and reports `kind`
(spec/40_parser.md R71, R82). -/
def consumeResult (r : Regs) (kind : PacketKind) : Result where
  kind := kind
  conc := r.lastConc
  concValid := r.lastValid
  status := .ok
  frameValid := false
  frame := 0

/-- The operations of the Frame Codec. -/
def IsCodec (i : Instr) : Prop :=
  (∃ rsv, i = .encRead rsv) ∨ (∃ rsv, i = .encAbcOff rsv) ∨ (∃ r, i = .encSetRange r)

/-- `F[1] + ... + F[8]` as a number. -/
def Frame.sumChecked (F : Frame) : Nat :=
  F.addr.toNat + F.cmd.toNat + F.data0.toNat + F.data1.toNat + F.data2.toNat + F.data3.toNat +
    F.data4.toNat + F.checksum.toNat

/-- `F[1] + ... + F[7]` as a number. -/
def Frame.sumBody (F : Frame) : Nat :=
  F.addr.toNat + F.cmd.toNat + F.data0.toNat + F.data1.toNat + F.data2.toNat + F.data3.toNat +
    F.data4.toNat

end Sys2Proof.Machine
end

