-- ==== Sys2Proof/WellFormed.lean ====
section
/-! DEFINITION. Which operations the assembler syntax can write (spec/30_encoding.md R68). -/

namespace Sys2Proof

/-- The operation code is assigned: it is none of the reserved codes 5, 6, 7 (R62). -/
def Instr.opAssigned : Instr → Bool
  | .consume _ _ => true
  | .encRead _ => true
  | .encAbcOff _ => true
  | .encSetRange _ => true
  | .init _ => true
  | .reserved5 _ => false
  | .reserved6 _ => false
  | .reserved7 _ => false

/-- The operand bits without meaning are zero, as R63 says they should be written. -/
def Instr.reservedBitsZero : Instr → Bool
  | .consume _ rsv => rsv == 0
  | .encRead rsv => rsv == 0
  | .encAbcOff rsv => rsv == 0
  | .encSetRange _ => true
  | .init rsv => rsv == 0
  | .reserved5 arg => arg == 0
  | .reserved6 arg => arg == 0
  | .reserved7 arg => arg == 0

/-- The operation is one the syntax of R68 can write. The machine does not use this check: it gives
every word its meaning, well-formed or not (log entry 17). -/
def Instr.wellFormed (i : Instr) : Bool := i.opAssigned && i.reservedBitsZero

end Sys2Proof
end

