-- ==== Sys2Proof/Certificates/Slice0/Obligations.lean ====
section
/-! DEFINITION. The statements for the provers, from the numbered rules of spec/. Where the spec marks a
rule as its own decision (D<n>) or as derived, the docstring says so. -/

open Sys2Proof Sys2Proof.Machine

/-! ### Decoding and encoding -/

/-- Words written out from the tables of spec/30_encoding.md R58, R59, R68 (decisions D2, D3), each
with the operation it stands for. That the operation also shows the reserved operand bits is the
model's choice (log entry 6); R63 only says that the engine ignores them. -/
def Obligations.WrittenWordsDecode : Prop :=
  decode 0x000FF = .consume 0xFF 0x00 ∧ decode 0x0AB86 = .consume 0x86 0xAB ∧
  decode 0x10000 = .encRead 0 ∧ decode 0x1BEEF = .encRead 0xBEEF ∧
  decode 0x20000 = .encAbcOff 0 ∧ decode 0x31388 = .encSetRange 5000 ∧
  decode 0x40000 = .init 0 ∧ decode 0x50000 = .reserved5 0 ∧
  decode 0x60001 = .reserved6 1 ∧ decode 0x7FFFF = .reserved7 0xFFFF

/-- R68: the words of the assembler syntax (decision D21). -/
def Obligations.AssemblerSyntaxWords : Prop :=
  (∀ b : Byte, encode (.consume b 0) = BitVec.ofNat 19 ((0b000 <<< 16) ||| b.toNat)) ∧
  encode (.encRead 0) = 0x10000 ∧
  encode (.encAbcOff 0) = 0x20000 ∧
  (∀ n : Half, encode (.encSetRange n) = BitVec.ofNat 19 ((0b011 <<< 16) ||| n.toNat)) ∧
  encode (.init 0) = 0x40000 ∧
  encode (.consume 0xFF 0) = 0x000FF ∧ encode (.encSetRange 2000) = 0x307D0 ∧
  encode (.encSetRange 5000) = 0x31388 ∧ encode (.encSetRange 10000) = 0x32710 ∧
  encode (.encSetRange 3000) = 0x30BB8

/-- Decoding gives back every operation, well-formed or not, with every operand bit. For the reserved
operand bits this rests on the model's choice to keep them in `Instr` (log entry 6, DESIGN CHOICE). -/
def Obligations.DecodeOfEncode : Prop := ∀ i : Instr, decode (encode i) = i

/-- Every 19-bit word is the encoding of the operation it decodes to: no bit of a word is dropped. For
the reserved operand bits this is the model's choice, not the spec's: `Instr` keeps them (log entry 6,
DESIGN CHOICE), while R63 only says that the engine ignores them. -/
def Obligations.EncodeOfDecode : Prop := ∀ w : OpWord, encode (decode w) = w

/-- R67 (a rule the spec derives from R58, R59 and R62): `OPW[18:16]` alone selects the operation, and
the operand is that of R61. The fields are computed as numbers here. The reserved operand bits, which
R63 only ignores, stand in the operation by the model's choice (log entry 6). -/
def Obligations.OperationCodeSelectsOperation : Prop :=
  ∀ w : OpWord,
    (w.toNat / 65536 = 0 →
      decode w = .consume (BitVec.ofNat 8 (w.toNat % 256)) (BitVec.ofNat 8 (w.toNat / 256 % 256))) ∧
    (w.toNat / 65536 = 1 → decode w = .encRead (BitVec.ofNat 16 (w.toNat % 65536))) ∧
    (w.toNat / 65536 = 2 → decode w = .encAbcOff (BitVec.ofNat 16 (w.toNat % 65536))) ∧
    (w.toNat / 65536 = 3 → decode w = .encSetRange (BitVec.ofNat 16 (w.toNat % 65536))) ∧
    (w.toNat / 65536 = 4 → decode w = .init (BitVec.ofNat 16 (w.toNat % 65536))) ∧
    (w.toNat / 65536 = 5 → decode w = .reserved5 (BitVec.ofNat 16 (w.toNat % 65536))) ∧
    (w.toNat / 65536 = 6 → decode w = .reserved6 (BitVec.ofNat 16 (w.toNat % 65536))) ∧
    (w.toNat / 65536 = 7 → decode w = .reserved7 (BitVec.ofNat 16 (w.toNat % 65536)))

/-- R63 (decision D4): an operation with nonzero reserved bits behaves exactly as the same operation
with them zero, in every state: `OPW[15:8]` of CONSUME, `OPW[15:0]` of ENC_READ, ENC_ABC_OFF, INIT. -/
def Obligations.ReservedOperandBitsIgnored : Prop :=
  ∀ (w : OpWord) (s : State),
    (w.toNat / 65536 = 0 → step (s.present (presentWord w)) = step (s.present (presentWord (w &&& 0x700FF)))) ∧
    (w.toNat / 65536 = 1 → step (s.present (presentWord w)) = step (s.present (presentWord (w &&& 0x70000)))) ∧
    (w.toNat / 65536 = 2 → step (s.present (presentWord w)) = step (s.present (presentWord (w &&& 0x70000)))) ∧
    (w.toNat / 65536 = 4 → step (s.present (presentWord w)) = step (s.present (presentWord (w &&& 0x70000))))

/-! ### The step, the port and runs -/

/-- The operation word at the head of the port (presented without reset) is taken, and the step is the
decoded operation at the state that holds the rest of the port. The port is the model's list of what
the environment presents (log entry 1). -/
def Obligations.StepRunsPresentedOperation : Prop :=
  ∀ (s : State) (w : OpWord) (i : Instr) (rest : List PortInput),
    s.port = { rst := false, opw := some w } :: rest → decode w = i →
      step s = exec i { s with port := rest }

/-- R107 (decision D28): a step with `rst` asserted takes the state and drives the outputs of INIT
(R106), whatever operation is presented with it; power-on is the same state; INIT has the same effect. -/
def Obligations.ResetInputOverridesOperation : Prop :=
  ∀ (s : State) (opw : Option OpWord) (rest : List PortInput) (rsv : Half),
    s.port = { rst := true, opw := opw } :: rest →
      step s = .next
        { regs := { pos := .sync, cksum := 0, kindStg := .incomplete, data0 := 0, concStg := 0,
                    lastConc := 0, lastValid := false }
          out := some { kind := .incomplete, conc := 0, concValid := false, status := .ok,
                        frameValid := false, frame := 0 }
          port := rest } ∧
      exec (.init rsv) { s with port := rest } = step s ∧
      step s = .next { State.reset with port := rest }

/-- R129 (decision D29): while no operation and no reset arrives, the registers are held, for any
number of steps, whether the port is empty or presents nothing. -/
def Obligations.IdleEngineHoldsRegisters : Prop :=
  ∀ (n : Nat) (s : State), (∀ i ∈ s.port, i.rst = false ∧ i.opw = none) →
    ∃ t : State, Sys2Proof.core.run n s = .next t ∧ t.regs = s.regs

/-- No run of any length from any state faults or is refused: "The engine never traps, halts or
faults", and "Every state is quiescent and can take any further operation". -/
def Obligations.EveryRunGoesOn : Prop :=
  (∀ (n : Nat) (s : State), ∃ t : State, Sys2Proof.core.run n s = .next t) ∧
  (∀ (inputs : List PortInput) (s : State), ∃ outs t,
    observe inputs s = .next (outs, t) ∧ outs.length = inputs.length ∧ t.port = s.port)

/-- R44: operations waiting at the port take effect one at a time, in the order they are issued, each
seeing the state left by the one before: the run over the port is the fold of the step function. -/
def Obligations.PortOrderIsAFold : Prop :=
  ∀ (inputs : List PortInput) (s : State), s.port = [] →
    ∃ outs t, observe inputs s = .next (outs, t) ∧
      Sys2Proof.core.run inputs.length { s with port := inputs } = .next t

/-- R24: between operations only the registers carry anything. Operations from two states with the
same registers leave the same registers and the same outputs. No codec operation writes the parser's
registers, and what it drives depends on `LAST_CONC` and `LAST_VALID` alone. -/
def Obligations.OnlyRegistersCarry : Prop :=
  (∀ (i : Instr) (s t : State), s.regs = t.regs →
    ∃ s' t', exec i s = .next s' ∧ exec i t = .next t' ∧ s'.regs = t'.regs ∧ s'.out = t'.out ∧
      s'.port = s.port ∧ t'.port = t.port) ∧
  (∀ (i : Instr) (s t : State), IsCodec i →
    s.regs.lastConc = t.regs.lastConc → s.regs.lastValid = t.regs.lastValid →
    ∃ s' t', exec i s = .next s' ∧ exec i t = .next t' ∧ s'.regs = s.regs ∧ t'.regs = t.regs ∧
      s'.out = t'.out)

/-! ### CONSUME, position by position -/

/-- R72 (the value 0x00 is decision D8, conflict C1): at Sync a byte other than 0xFF changes no
register; 0xFF clears `CKSUM` and moves `POS` to 1. -/
def Obligations.ConsumeAtSync : Prop :=
  ∀ (b rsv : Byte) (s : State), s.regs.pos = .sync →
    (b ≠ 0xFF →
      exec (.consume b rsv) s = .next { s with out := some (consumeResult s.regs .incomplete) }) ∧
    (b = 0xFF →
      exec (.consume b rsv) s = .next
        { s with
          regs := { s.regs with cksum := 0x00, pos := .address }
          out := some (consumeResult s.regs .incomplete) })

/-- R73 (decision D7): the address byte is folded, any value is accepted, and `POS` becomes 2. -/
def Obligations.ConsumeAtAddress : Prop :=
  ∀ (b rsv : Byte) (s : State), s.regs.pos = .address →
    exec (.consume b rsv) s = .next
      { s with
        regs := { s.regs with cksum := s.regs.cksum + b, pos := .command }
        out := some (consumeResult s.regs .incomplete) }

/-- R75 with the command-byte table of R55: the kind is staged and not reported. -/
def Obligations.ConsumeAtCommand : Prop :=
  ∀ (b rsv : Byte) (s : State), s.regs.pos = .command →
    exec (.consume b rsv) s = .next
      { s with
        regs := { s.regs with
          cksum := s.regs.cksum + b
          kindStg := if b = 0x86 then .reading else if b = 0x79 then .abcOff
            else if b = 0x99 then .setRange else .unrecognized
          pos := .data0 }
        out := some (consumeResult s.regs .incomplete) }

/-- R76: data byte 0 is stored whatever the staged kind. -/
def Obligations.ConsumeAtDataZero : Prop :=
  ∀ (b rsv : Byte) (s : State), s.regs.pos = .data0 →
    exec (.consume b rsv) s = .next
      { s with
        regs := { s.regs with cksum := s.regs.cksum + b, data0 := b, pos := .data1 }
        out := some (consumeResult s.regs .incomplete) }

/-- R77: data byte 1 stages `256 * DATA0 + b` in a `Reading` frame, without overflow, and nothing in
any other frame. -/
def Obligations.ConsumeAtDataOne : Prop :=
  ∀ (b rsv : Byte) (s : State), s.regs.pos = .data1 →
    (s.regs.kindStg = .reading →
      ∃ v : Half, v.toNat = 256 * s.regs.data0.toNat + b.toNat ∧
        exec (.consume b rsv) s = .next
          { s with
            regs := { s.regs with cksum := s.regs.cksum + b, concStg := v, pos := .data2 }
            out := some (consumeResult s.regs .incomplete) }) ∧
    (s.regs.kindStg ≠ .reading →
      exec (.consume b rsv) s = .next
        { s with
          regs := { s.regs with cksum := s.regs.cksum + b, pos := .data2 }
          out := some (consumeResult s.regs .incomplete) })

/-- R78: data bytes 2 to 4 are folded, `POS` goes up by one, nothing else changes. -/
def Obligations.ConsumeAtPadding : Prop :=
  ∀ (b rsv : Byte) (s : State) (next : FramePos),
    (s.regs.pos = .data2 ∧ next = .data3) ∨ (s.regs.pos = .data3 ∧ next = .data4) ∨
      (s.regs.pos = .data4 ∧ next = .checksum) →
    exec (.consume b rsv) s = .next
      { s with
        regs := { s.regs with cksum := s.regs.cksum + b, pos := next }
        out := some (consumeResult s.regs .incomplete) }

/-- R80: the byte that closes a valid frame reports the staged kind; a `Reading` updates `LAST_CONC`
and `LAST_VALID`, shown on the outputs of the same step; the other kinds leave both alone. In the
states of the invariant the staged kind is one of the four. -/
def Obligations.ConsumeClosesValidFrame : Prop :=
  ∀ (b rsv : Byte) (s : State), s.regs.pos = .checksum → s.regs.cksum + b = 0 →
    (s.regs.kindStg = .reading →
      exec (.consume b rsv) s = .next
        { s with
          regs := { s.regs with
            cksum := 0, pos := .sync, lastConc := s.regs.concStg, lastValid := true }
          out := some { kind := .reading, conc := s.regs.concStg, concValid := true, status := .ok,
                        frameValid := false, frame := 0 } }) ∧
    (s.regs.kindStg ≠ .reading →
      exec (.consume b rsv) s = .next
        { s with
          regs := { s.regs with cksum := 0, pos := .sync }
          out := some (consumeResult s.regs s.regs.kindStg) }) ∧
    (s.regs.Inv → s.regs.kindStg = .reading ∨ s.regs.kindStg = .abcOff ∨
      s.regs.kindStg = .setRange ∨ s.regs.kindStg = .unrecognized)

/-- R81: a checksum byte that does not close the frame discards it silently: `Incomplete`, status 0,
`POS` back to 0, the last known concentration unchanged. -/
def Obligations.ConsumeDiscardsCorruptFrame : Prop :=
  ∀ (b rsv : Byte) (s : State), s.regs.pos = .checksum → s.regs.cksum + b ≠ 0 →
    exec (.consume b rsv) s = .next
      { s with
        regs := { s.regs with cksum := s.regs.cksum + b, pos := .sync }
        out := some (consumeResult s.regs .incomplete) }

/-- R82: `Incomplete` at `POS` 0..7, and at every position status 0 and no frame. -/
def Obligations.ConsumeOutputs : Prop :=
  ∀ (b rsv : Byte) (s : State), ∃ t o, exec (.consume b rsv) s = .next t ∧ t.out = some o ∧
    (s.regs.pos.index ≤ 7 → o.kind = .incomplete) ∧
    o.status.code = 0 ∧ o.frameValid = false ∧ o.frame = 0

/-- R83 (a rule the spec derives from R71): every CONSUME moves the machine, and a kind other than
`Incomplete` comes only from `POS = 8` and a valid frame. -/
def Obligations.ConsumeMovesPosition : Prop :=
  ∀ (b rsv : Byte) (s : State), ∃ t o, exec (.consume b rsv) s = .next t ∧ t.out = some o ∧
    (1 ≤ s.regs.pos.index → s.regs.pos.index ≤ 7 → t.regs.pos.index = s.regs.pos.index + 1) ∧
    (s.regs.pos.index = 8 → t.regs.pos.index = 0) ∧
    (s.regs.pos.index = 0 → b = 0xFF → t.regs.pos.index = 1) ∧
    (s.regs.pos.index = 0 → b ≠ 0xFF → t.regs.pos.index = 0) ∧
    (o.kind ≠ .incomplete →
      s.regs.pos.index = 8 ∧ (s.regs.cksum.toNat + b.toNat) % 256 = 0)

/-! ### Byte streams -/

/-- R74: every byte from offset 1 on is folded, so after the byte at offset `k` the register `CKSUM`
is the sum of the bytes at offsets 1 to `k` modulo 256. -/
def Obligations.ChecksumAccumulates : Prop :=
  (∀ (b rsv : Byte) (s : State), s.regs.pos ≠ .sync →
    ∃ t, exec (.consume b rsv) s = .next t ∧
      t.regs.cksum.toNat = (s.regs.cksum.toNat + b.toNat) % 256) ∧
  (∀ (bs : List Byte) (s : State), s.regs.pos = .sync → 1 ≤ bs.length → bs.length ≤ 8 →
    ∃ outs t, observe (feed (0xFF :: bs)) s = .next (outs, t) ∧
      t.regs.cksum.toNat = (bs.map BitVec.toNat).sum % 256)

/-- R84 (a rule the spec derives from R72 to R81): nine bytes from Sync that start with 0xFF are one
frame, whatever the other registers hold before: eight `Incomplete`, then the classification of the
command byte if offsets 1 to 8 sum to 0 modulo 256; only a valid `Reading` updates the concentration. -/
def Obligations.AlignedFrameIsDecoded : Prop :=
  ∀ (s : State) (F : Frame), s.regs.pos = .sync → F.sync = 0xFF →
    ∃ o t, observe (feedFrame F) s
        = .next (List.replicate 8 (some (consumeResult s.regs .incomplete)) ++ [some o], t) ∧
      t.regs.pos = .sync ∧ t.port = s.port ∧
      (F.sumChecked % 256 = 0 → o.kind = classify F.cmd) ∧
      (F.sumChecked % 256 ≠ 0 → o.kind = .incomplete) ∧
      (F.sumChecked % 256 = 0 → F.cmd = 0x86 →
        t.regs.lastConc.toNat = 256 * F.data0.toNat + F.data1.toNat ∧ t.regs.lastValid = true) ∧
      (¬ (F.sumChecked % 256 = 0 ∧ F.cmd = 0x86) →
        t.regs.lastConc = s.regs.lastConc ∧ t.regs.lastValid = s.regs.lastValid) ∧
      o = consumeResult t.regs o.kind

/-- R85 (a rule the spec derives from R84 and R53): for fixed offsets 0 to 7 exactly one checksum byte
makes the ninth CONSUME report a packet, `(256 - s) mod 256`; every other one leaves `POS = 0` too. -/
def Obligations.OneChecksumByteIsAccepted : Prop :=
  ∀ (s : State) (F : Frame) (b : Byte), s.regs.pos = .sync → F.sync = 0xFF →
    ∃ outs o t, observe (feedFrame { F with checksum := b }) s = .next (outs ++ [some o], t) ∧
      outs.length = 8 ∧ t.regs.pos = .sync ∧
      (o.kind ≠ .incomplete ↔ b.toNat = (256 - F.sumBody % 256) % 256)

/-- R86 (a rule the spec derives from R72, R79 and R83; decision D22): bytes that arrive while
`POS ≠ 0` are the remaining positions of the frame in progress, whatever they are, and the window that
ends there is validated like any other; its kind is the staged one, or that of the byte taken as command. -/
def Obligations.MisalignedBytesEndTheWindow : Prop :=
  ∀ (bs : List Byte) (s : State), s.regs.pos ≠ .sync → bs.length = 9 - s.regs.pos.index →
    ∃ outs o t, observe (feed bs) s = .next (outs ++ [some o], t) ∧
      (∀ p ∈ outs, ∃ q, p = some q ∧ q.kind = .incomplete) ∧ t.regs.pos = .sync ∧
      ((s.regs.cksum.toNat + (bs.map BitVec.toNat).sum) % 256 ≠ 0 → o.kind = .incomplete) ∧
      ((s.regs.cksum.toNat + (bs.map BitVec.toNat).sum) % 256 = 0 →
        (s.regs.pos = .address → ∀ c, bs[1]? = some c → o.kind = classify c) ∧
        (s.regs.pos = .command → ∀ c, bs[0]? = some c → o.kind = classify c) ∧
        (3 ≤ s.regs.pos.index → o.kind = s.regs.kindStg))

/-- R87 (a rule the spec derives from R83): from `POS = p` with `1 ≤ p ≤ 8` exactly `9 - p` bytes, and
no fewer, bring `POS` to 0; 8 bytes after an accepted sync byte. -/
def Obligations.RecoveryBound : Prop :=
  (∀ (bs : List Byte) (s : State), s.regs.pos ≠ .sync → bs.length ≤ 9 - s.regs.pos.index →
    ∃ outs t, observe (feed bs) s = .next (outs, t) ∧
      (bs.length = 9 - s.regs.pos.index → t.regs.pos = .sync) ∧
      (bs.length < 9 - s.regs.pos.index → t.regs.pos.index = s.regs.pos.index + bs.length)) ∧
  (∀ (bs : List Byte) (s : State), s.regs.pos = .sync → bs.length = 8 →
    ∃ outs t, observe (feed (0xFF :: bs)) s = .next (outs, t) ∧ t.regs.pos = .sync)

/-- R88 (a rule the spec derives from R72 and R87; it is what is left of the source's resynchronisation
claim, conflict C3): after bytes `G` without 0xFF from Sync, or whose last 8 bytes hold no 0xFF from
any state, the engine is at Sync, and a well-formed frame that follows is decoded. -/
def Obligations.QuietBytesAlign : Prop :=
  ∀ (G : List Byte) (s : State),
    (s.regs.pos = .sync ∧ 0xFF ∉ G) ∨ (8 ≤ G.length ∧ 0xFF ∉ G.drop (G.length - 8)) →
    (∃ outs t, observe (feed G) s = .next (outs, t) ∧ t.regs.pos = .sync) ∧
    (∀ F : Frame, F.sync = 0xFF → F.sumChecked % 256 = 0 →
      ∃ outs o u, observe (feed G ++ feedFrame F) s = .next (outs ++ [some o], u) ∧
        outs.length = G.length + 8 ∧ o.kind = classify F.cmd ∧ u.regs.pos = .sync ∧
        (F.cmd = 0x86 → u.regs.lastConc.toNat = 256 * F.data0.toNat + F.data1.toNat ∧
          u.regs.lastValid = true))

/-- R29 (a rule the spec derives from R17, R18, R19, R28 and R72): at Sync only `LAST_CONC` and
`LAST_VALID` can influence any result; the other registers show in no output of any later run. -/
def Obligations.InternalRegistersAreUnobservable : Prop :=
  ∀ (inputs : List PortInput) (s t : State), s.regs.pos = .sync → t.regs.pos = .sync →
    s.regs.lastConc = t.regs.lastConc → s.regs.lastValid = t.regs.lastValid →
    ∃ outs s' t', observe inputs s = .next (outs, s') ∧ observe inputs t = .next (outs, t')

/-! ### The Frame Codec -/

/-- R93: ENC_READ, the words with `OPW[18:16] = 1`, drives `FF 01 86 00 00 00 00 00 79`, packed with offset 0 lowest (decision D12); fed
to the parser at Sync, that frame is a valid `Reading` of concentration 0. -/
def Obligations.EncReadDrivesRequest : Prop :=
  (∀ w : OpWord, w.toNat / 65536 = 1 → ∃ rsv, decode w = .encRead rsv) ∧
  (∀ (rsv : Half) (s : State),
    exec (.encRead rsv) s = .next
      { s with out := some { kind := .incomplete, conc := s.regs.lastConc,
                             concValid := s.regs.lastValid, status := .ok, frameValid := true,
                             frame := 0x7900000000008601FF } }) ∧
  (∀ s : State, s.regs.pos = .sync →
    ∃ outs o t, observe (feed [0xFF, 0x01, 0x86, 0x00, 0x00, 0x00, 0x00, 0x00, 0x79]) s
        = .next (outs ++ [some o], t) ∧
      o.kind = .reading ∧ t.regs.lastConc = 0 ∧ t.regs.lastValid = true)

/-- R95: ENC_ABC_OFF, the words with `OPW[18:16] = 2`, drives `FF 01 79 00 00 00 00 00 86`; fed to the parser at Sync, that frame is a
valid `ABCOff`. -/
def Obligations.EncAbcOffDrivesDisable : Prop :=
  (∀ w : OpWord, w.toNat / 65536 = 2 → ∃ rsv, decode w = .encAbcOff rsv) ∧
  (∀ (rsv : Half) (s : State),
    exec (.encAbcOff rsv) s = .next
      { s with out := some { kind := .incomplete, conc := s.regs.lastConc,
                             concValid := s.regs.lastValid, status := .ok, frameValid := true,
                             frame := 0x8600000000007901FF } }) ∧
  (∀ s : State, s.regs.pos = .sync →
    ∃ outs o t, observe (feed [0xFF, 0x01, 0x79, 0x00, 0x00, 0x00, 0x00, 0x00, 0x86]) s
        = .next (outs ++ [some o], t) ∧ o.kind = .abcOff)

/-- R97, R98 (decision D18), R99, R114: the operand is `OPW[15:0]`; the three ranges give their frames (as R100 lists them); any
other range gives `InvalidRange`, no frame, and no register changes. -/
def Obligations.EncSetRangeDrivesFrameOrError : Prop :=
  (∀ w : OpWord, w.toNat / 65536 = 3 →
    decode w = .encSetRange (BitVec.ofNat 16 (w.toNat % 65536))) ∧
  ∀ (r : Half) (s : State) (frame : PackedFrame),
    ((r.toNat = 2000 ∧ frame = 0x8F000000D0079901FF) ∨
      (r.toNat = 5000 ∧ frame = 0xCB00000088139901FF) ∨
      (r.toNat = 10000 ∧ frame = 0x2F00000010279901FF) →
      exec (.encSetRange r) s = .next
        { s with out := some { kind := .incomplete, conc := s.regs.lastConc,
                               concValid := s.regs.lastValid, status := .ok, frameValid := true,
                               frame := frame } }) ∧
    (r.toNat ≠ 2000 → r.toNat ≠ 5000 → r.toNat ≠ 10000 →
      exec (.encSetRange r) s = .next
        { s with out := some { kind := .incomplete, conc := s.regs.lastConc,
                               concValid := s.regs.lastValid, status := .invalidRange,
                               frameValid := false, frame := 0 } })

/-- R53: `ck(F) = (0xFF - s + 1) mod 256 = (256 - s) mod 256`, 0 when `s = 0` and `256 - s` otherwise;
the sync byte does not enter. -/
def Obligations.ChecksumFormula : Prop :=
  ∀ (F : Frame) (y : Byte),
    F.ck.toNat = (0xFF - F.sumBody % 256 + 1) % 256 ∧ F.ck.toNat = (256 - F.sumBody % 256) % 256 ∧
    (F.sumBody % 256 = 0 → F.ck = 0x00) ∧
    (F.sumBody % 256 ≠ 0 → F.ck.toNat = 256 - F.sumBody % 256) ∧
    ({ F with sync := y } : Frame).ck = F.ck

/-- R54 (a rule the spec derives from R53; conflict C1): offsets 1 to 8 sum to 0 exactly when the
checksum byte is `ck(F)`, and all nine bytes of such a frame sum to 0xFF. -/
def Obligations.ValidFrameHasItsChecksum : Prop :=
  ∀ F : Frame, F.sync = 0xFF →
    (F.sumChecked % 256 = 0 ↔ F.checksum = F.ck) ∧
    (F.sumChecked % 256 = 0 → (F.bytes.map BitVec.toNat).sum % 256 = 0xFF)

/-- R92: the frame builder's nine bytes; every frame that any operation drives sums to 0 modulo 256
over offsets 1 to 8; and the parser, fed any built frame from Sync, finds it valid, so builder and
parser agree on the checksum. -/
def Obligations.BuiltFramesAreChecksumValid : Prop :=
  (∀ cmd d0 d1 d2 d3 d4 : Byte, ∃ c : Byte,
    (buildFrame cmd d0 d1 d2 d3 d4).bytes = [0xFF, 0x01, cmd, d0, d1, d2, d3, d4, c] ∧
    c.toNat = (0xFF - (buildFrame cmd d0 d1 d2 d3 d4).sumBody % 256 + 1) % 256) ∧
  (∀ (i : Instr) (s t : State) (o : Result), exec i s = .next t → t.out = some o →
    o.frameValid = true →
    ((List.range 8).map fun k => (packedByte o.frame (k + 1)).toNat).sum % 256 = 0) ∧
  (∀ (cmd d0 d1 d2 d3 d4 : Byte) (s : State), s.regs.pos = .sync →
    ∃ outs o t, observe (feedFrame (buildFrame cmd d0 d1 d2 d3 d4)) s = .next (outs ++ [some o], t) ∧
      o.kind = classify cmd)

/-- R35 (decision D12): on the packed output, byte `k` of a frame is at bits `[8k+7:8k]`, and the
sync byte of every frame that an operation drives is in the least significant byte. -/
def Obligations.PackedFrameBytes : Prop :=
  (∀ (F : Frame) (k : Nat), k < 9 → F.bytes[k]? = some (F.pack.extractLsb' (8 * k) 8)) ∧
  (∀ (i : Instr) (s t : State) (o : Result), exec i s = .next t → t.out = some o →
    o.frameValid = true → o.frame.extractLsb' 0 8 = 0xFF)

/-- R91: a codec operation writes no register, drives `OUT.kind = 0` and shows `LAST_CONC` and
`LAST_VALID` unchanged; its status and its frame are the same from any two states. -/
def Obligations.CodecIsStateless : Prop :=
  ∀ (i : Instr) (s t : State), IsCodec i →
    ∃ s' t' o p, exec i s = .next s' ∧ exec i t = .next t' ∧ s'.out = some o ∧ t'.out = some p ∧
      s'.regs = s.regs ∧ s'.port = s.port ∧ o.kind.code = 0 ∧ o.conc = s.regs.lastConc ∧
      o.concValid = s.regs.lastValid ∧ o.status = p.status ∧ o.frameValid = p.frameValid ∧
      o.frame = p.frame

/-- R48 (a rule the spec derives from R24 and R41; decision D25): a codec operation put anywhere into a
sequence changes no other step's result and no register of the final state. -/
def Obligations.CodecOperationsCommute : Prop :=
  ∀ (before after : List PortInput) (w : OpWord) (s : State), IsCodec (decode w) →
    ∃ o1 o2 o t t', observe (before ++ after) s = .next (o1 ++ o2, t) ∧
      observe (before ++ presentWord w :: after) s = .next (o1 ++ o :: o2, t') ∧
      o1.length = before.length ∧ t'.regs = t.regs

/-- R101 (a rule the spec derives from R92 and R84): the bytes that SEND takes from a codec operation's
output, fed from Sync, are eight `Incomplete` and then the operation's own kind; after ENC_READ the
concentration is 0. -/
def Obligations.CodecFramesParseBack : Prop :=
  ∀ (i : Instr) (kind : PacketKind) (s : State), s.regs.pos = .sync →
    ((∃ rsv, i = .encRead rsv) ∧ kind = .reading) ∨
      ((∃ rsv, i = .encAbcOff rsv) ∧ kind = .abcOff) ∨
      ((∃ r, i = .encSetRange r ∧ (r.toNat = 2000 ∨ r.toNat = 5000 ∨ r.toNat = 10000)) ∧
        kind = .setRange) →
    ∃ t o outs u, exec i s = .next t ∧ t.out = some o ∧ (sendBytes o).length = 9 ∧
      observe (feed (sendBytes o)) t = .next (outs, u) ∧
      kindsOf outs = List.replicate 8 (some .incomplete) ++ [some kind] ∧
      (kind = .reading → u.regs.lastConc = 0 ∧ u.regs.lastValid = true)

/-! ### INIT, reserved codes, reset -/

/-- R106 (decisions D9, D26): INIT, the words with `OPW[18:16] = 4`, writes every register and drives zero outputs with status 0. -/
def Obligations.InitRestoresChannelOpen : Prop :=
  (∀ w : OpWord, w.toNat / 65536 = 4 → ∃ rsv, decode w = .init rsv) ∧
  ∀ (rsv : Half) (s : State),
    exec (.init rsv) s = .next
      { s with
        regs := { pos := .sync, cksum := 0x00, kindStg := .incomplete, data0 := 0x00,
                  concStg := 0x0000, lastConc := 0x0000, lastValid := false }
        out := some { kind := .incomplete, conc := 0x0000, concValid := false, status := .ok,
                      frameValid := false, frame := 0 } }

/-- R117 (decision D5): a word with `OPW[18:16]` 5, 6 or 7, with any operand bits, changes no register and
reports status 2, kind 0 and no frame. The engine goes on (log entry 7). -/
def Obligations.ReservedCodesAreIllegal : Prop :=
  (∀ w : OpWord, 5 ≤ w.toNat / 65536 →
    ∃ arg, decode w = .reserved5 arg ∨ decode w = .reserved6 arg ∨ decode w = .reserved7 arg) ∧
  ∀ (i : Instr) (arg : Half) (s : State),
    i = .reserved5 arg ∨ i = .reserved6 arg ∨ i = .reserved7 arg →
    exec i s = .next
      { s with out := some { kind := .incomplete, conc := s.regs.lastConc,
                             concValid := s.regs.lastValid, status := .illegalOperation,
                             frameValid := false, frame := 0 } } ∧
    Status.illegalOperation.code = 2 ∧ PacketKind.incomplete.code = 0

/-- R28 (decisions D9, D10): the reset values, by their codes, after power-on and after every step that
takes the reset input or INIT, from every state. -/
def Obligations.ResetRegisterValues : Prop :=
  ∀ r : Regs,
    (r = State.reset.regs ∨
      (∃ s t opw rest, s.port = { rst := true, opw := opw } :: rest ∧ step s = .next t ∧ r = t.regs) ∨
      (∃ s t w rest rsv, s.port = presentWord w :: rest ∧ decode w = .init rsv ∧ step s = .next t ∧
        r = t.regs)) →
    r.pos.code = 0 ∧ r.cksum = 0x00 ∧ r.kindStg.code = 0 ∧ r.data0 = 0x00 ∧ r.concStg = 0x0000 ∧
    r.lastConc = 0x0000 ∧ r.lastValid = false

/-! ### Rules of the whole machine -/

/-- The state after reset meets the machine's invariant. -/
def Obligations.ResetMeetsInvariant : Prop := State.reset.Inv

/-- From every state that meets the invariant, every step, whatever is presented, gives one that does:
the staged kind and checksum (R16, R17), the staged concentration (R77), the last known concentration
(R20, R21) and the outputs (R60, R79, R80, R102) stay as the spec says. -/
def Obligations.StepKeepsInvariant : Prop :=
  ∀ s t : State, s.Inv → step s = .next t → t.Inv

/-- R20: over all steps, `LAST_CONC` changes only by a CONSUME that completes a valid frame whose
staged kind is `Reading`, which writes the staged concentration, or by INIT (the reset input has INIT's
effect, R107). It is not cleared between readings, and `OUT.conc` shows it at all times. -/
def Obligations.LastConcentrationHasOneWriter : Prop :=
  ∀ s t : State, step s = .next t →
    (t.regs.lastConc ≠ s.regs.lastConc →
      (∃ w rest b rsv, s.port = presentWord w :: rest ∧ decode w = .consume b rsv ∧
        s.regs.pos = .checksum ∧ (s.regs.cksum.toNat + b.toNat) % 256 = 0 ∧
        s.regs.kindStg = .reading ∧ t.regs.lastConc = s.regs.concStg) ∨
      (∃ w rest rsv, s.port = presentWord w :: rest ∧ decode w = .init rsv ∧ t.regs.lastConc = 0) ∨
      (∃ opw rest, s.port = { rst := true, opw := opw } :: rest ∧ t.regs.lastConc = 0)) ∧
    t.outConc = t.regs.lastConc ∧
    (∀ o, t.out = some o → o.conc = t.outConc)

/-- R21 (decision D9): over all steps, `LAST_VALID` goes to 1 exactly where a decoded reading is
written to `LAST_CONC`, and goes to 0 only by INIT and reset, which always clear it; `OUT.conc_valid`
shows it at all times. -/
def Obligations.LastValidFollowsReadings : Prop :=
  ∀ s t : State, step s = .next t →
    (∀ w rest b rsv, s.port = presentWord w :: rest → decode w = .consume b rsv →
      s.regs.pos = .checksum → (s.regs.cksum.toNat + b.toNat) % 256 = 0 →
      s.regs.kindStg = .reading → t.regs.lastValid = true ∧ t.regs.lastConc = s.regs.concStg) ∧
    (∀ w rest rsv, s.port = presentWord w :: rest → decode w = .init rsv → t.regs.lastValid = false) ∧
    (∀ opw rest, s.port = { rst := true, opw := opw } :: rest → t.regs.lastValid = false) ∧
    (t.regs.lastValid = true → s.regs.lastValid = false →
      ∃ w rest b rsv, s.port = presentWord w :: rest ∧ decode w = .consume b rsv ∧
        s.regs.pos = .checksum ∧ (s.regs.cksum.toNat + b.toNat) % 256 = 0 ∧
        s.regs.kindStg = .reading) ∧
    (t.regs.lastValid = false → s.regs.lastValid = true →
      (∃ w rest rsv, s.port = presentWord w :: rest ∧ decode w = .init rsv) ∨
      (∃ opw rest, s.port = { rst := true, opw := opw } :: rest)) ∧
    t.outConcValid = t.regs.lastValid ∧
    (∀ o, t.out = some o → o.concValid = t.outConcValid)

/-- R23 (a rule the spec derives): the write matrix, the frame of every operation. CONSUME writes each
register only in its own case; codec operations and reserved codes write none; INIT writes the reset
values. No operation takes anything from the port. -/
def Obligations.WriteMatrix : Prop :=
  (∀ (b rsv : Byte) (s : State), ∃ t, exec (.consume b rsv) s = .next t ∧ t.port = s.port ∧
    (s.regs.pos = .sync → b ≠ 0xFF → t.regs.cksum = s.regs.cksum) ∧
    (s.regs.pos ≠ .command → t.regs.kindStg = s.regs.kindStg) ∧
    (s.regs.pos ≠ .data0 → t.regs.data0 = s.regs.data0) ∧
    (¬ (s.regs.pos = .data1 ∧ s.regs.kindStg = .reading) → t.regs.concStg = s.regs.concStg) ∧
    (¬ (s.regs.pos = .checksum ∧ (s.regs.cksum.toNat + b.toNat) % 256 = 0 ∧
        s.regs.kindStg = .reading) →
      t.regs.lastConc = s.regs.lastConc ∧ t.regs.lastValid = s.regs.lastValid)) ∧
  (∀ (i : Instr) (arg : Half) (s : State),
    IsCodec i ∨ i = .reserved5 arg ∨ i = .reserved6 arg ∨ i = .reserved7 arg →
    ∃ t, exec i s = .next t ∧ t.regs = s.regs ∧ t.port = s.port) ∧
  (∀ (rsv : Half) (s : State), ∃ t, exec (.init rsv) s = .next t ∧ t.regs = State.reset.regs ∧
    t.port = s.port)

/-- R60 (decisions D11, D12, D13): every operation drives every output; the concentration outputs show
the registers after the step, `OUT.frame` is zero without a frame, and the table's values by
operation. -/
def Obligations.EveryOperationDrivesItsOutputs : Prop :=
  ∀ (i : Instr) (s : State), ∃ t o, exec i s = .next t ∧ t.out = some o ∧
    o.conc = t.regs.lastConc ∧ o.concValid = t.regs.lastValid ∧
    (o.frameValid = false → o.frame = 0) ∧
    (∀ b rsv, i = .consume b rsv →
      (s.regs.pos = .checksum → (s.regs.cksum.toNat + b.toNat) % 256 = 0 →
        o.kind = s.regs.kindStg) ∧
      (¬ (s.regs.pos = .checksum ∧ (s.regs.cksum.toNat + b.toNat) % 256 = 0) → o.kind.code = 0) ∧
      o.status.code = 0 ∧ o.frameValid = false) ∧
    (∀ rsv, i = .encRead rsv → o.kind.code = 0 ∧ o.status.code = 0 ∧ o.frameValid = true ∧
      o.frame = 0x7900000000008601FF) ∧
    (∀ rsv, i = .encAbcOff rsv → o.kind.code = 0 ∧ o.status.code = 0 ∧ o.frameValid = true ∧
      o.frame = 0x8600000000007901FF) ∧
    (∀ r, i = .encSetRange r → o.kind.code = 0 ∧
      (r.toNat = 2000 ∨ r.toNat = 5000 ∨ r.toNat = 10000 → o.status.code = 0 ∧
        o.frameValid = true ∧ o.frame = (buildFrame 0x99 (BitVec.ofNat 8 (r.toNat / 256))
          (BitVec.ofNat 8 (r.toNat % 256)) 0 0 0).pack) ∧
      (r.toNat ≠ 2000 → r.toNat ≠ 5000 → r.toNat ≠ 10000 → o.status.code = 1 ∧
        o.frameValid = false)) ∧
    (∀ rsv, i = .init rsv → o.kind.code = 0 ∧ o.status.code = 0 ∧ o.frameValid = false) ∧
    (∀ arg, i = .reserved5 arg ∨ i = .reserved6 arg ∨ i = .reserved7 arg →
      o.kind.code = 0 ∧ o.status.code = 2 ∧ o.frameValid = false)
end

