-- ==== Sys2Proof/Laws/Flags.lean ====
section
/-! SUPPORT. What the checksum, the classification and the operand helpers compute, as numbers. -/

namespace Sys2Proof.Machine

theorem foldByte_toNat (c b : Byte) : (foldByte c b).toNat = (c.toNat + b.toNat) % 256 := by
  simp [foldByte]

theorem foldByte_eq_zero_iff (c b : Byte) :
    foldByte c b = 0 ↔ (c.toNat + b.toNat) % 256 = 0 := by
  rw [← foldByte_toNat]
  exact ⟨fun h => by rw [h]; rfl, fun h => BitVec.eq_of_toNat_eq h⟩

/-- `classify` never answers `Incomplete` (spec/30_encoding.md R57). -/
theorem classify_ne_incomplete (b : Byte) : classify b ≠ .incomplete := by
  unfold classify; split_ifs <;> simp

theorem classify_eq_reading_iff (b : Byte) : classify b = .reading ↔ b = 0x86 := by
  unfold classify Config.cmdReading; split_ifs <;> simp_all

/-- The concentration does not overflow (spec/40_parser.md R77). -/
theorem concentration_toNat (d0 d1 : Byte) :
    (concentration d0 d1).toNat = 256 * d0.toNat + d1.toNat := by
  have h0 := d0.isLt
  have h1 := d1.isLt
  simp [concentration, zext16]
  omega

theorem rangeIsValid_iff (r : Half) : rangeIsValid r = true ↔ r = 2000 ∨ r = 5000 ∨ r = 10000 := by
  simp [rangeIsValid, Config.validRanges]

theorem bodySum_toNat (F : Frame) :
    F.bodySum.toNat = (F.addr.toNat + F.cmd.toNat + F.data0.toNat + F.data1.toNat + F.data2.toNat
      + F.data3.toNat + F.data4.toNat) % 256 := by
  simp [Frame.bodySum, BitVec.toNat_add, Nat.add_mod]

theorem ck_toNat (F : Frame) : F.ck.toNat = (256 - F.bodySum.toNat) % 256 := by
  have h := F.bodySum.isLt
  simp [Frame.ck]
  omega

end Sys2Proof.Machine
end

