-- ==== Sys2Proof/Laws/State.lean ====
section
/-! SUPPORT. One lemma per field per update of the registers and of the state. -/

namespace Sys2Proof.Machine

@[simp] theorem Regs.setPos_pos (r : Regs) (p : FramePos) : (r.setPos p).pos = p := rfl
@[simp] theorem Regs.setPos_cksum (r : Regs) (p : FramePos) : (r.setPos p).cksum = r.cksum := rfl
@[simp] theorem Regs.setPos_kindStg (r : Regs) (p : FramePos) : (r.setPos p).kindStg = r.kindStg := rfl
@[simp] theorem Regs.setPos_data0 (r : Regs) (p : FramePos) : (r.setPos p).data0 = r.data0 := rfl
@[simp] theorem Regs.setPos_concStg (r : Regs) (p : FramePos) : (r.setPos p).concStg = r.concStg := rfl
@[simp] theorem Regs.setPos_lastConc (r : Regs) (p : FramePos) : (r.setPos p).lastConc = r.lastConc := rfl
@[simp] theorem Regs.setPos_lastValid (r : Regs) (p : FramePos) : (r.setPos p).lastValid = r.lastValid := rfl

@[simp] theorem Regs.setCksum_pos (r : Regs) (c : Byte) : (r.setCksum c).pos = r.pos := rfl
@[simp] theorem Regs.setCksum_cksum (r : Regs) (c : Byte) : (r.setCksum c).cksum = c := rfl
@[simp] theorem Regs.setCksum_kindStg (r : Regs) (c : Byte) : (r.setCksum c).kindStg = r.kindStg := rfl
@[simp] theorem Regs.setCksum_data0 (r : Regs) (c : Byte) : (r.setCksum c).data0 = r.data0 := rfl
@[simp] theorem Regs.setCksum_concStg (r : Regs) (c : Byte) : (r.setCksum c).concStg = r.concStg := rfl
@[simp] theorem Regs.setCksum_lastConc (r : Regs) (c : Byte) : (r.setCksum c).lastConc = r.lastConc := rfl
@[simp] theorem Regs.setCksum_lastValid (r : Regs) (c : Byte) : (r.setCksum c).lastValid = r.lastValid := rfl

@[simp] theorem Regs.setKindStg_pos (r : Regs) (k : PacketKind) : (r.setKindStg k).pos = r.pos := rfl
@[simp] theorem Regs.setKindStg_cksum (r : Regs) (k : PacketKind) : (r.setKindStg k).cksum = r.cksum := rfl
@[simp] theorem Regs.setKindStg_kindStg (r : Regs) (k : PacketKind) : (r.setKindStg k).kindStg = k := rfl
@[simp] theorem Regs.setKindStg_data0 (r : Regs) (k : PacketKind) : (r.setKindStg k).data0 = r.data0 := rfl
@[simp] theorem Regs.setKindStg_concStg (r : Regs) (k : PacketKind) : (r.setKindStg k).concStg = r.concStg := rfl
@[simp] theorem Regs.setKindStg_lastConc (r : Regs) (k : PacketKind) : (r.setKindStg k).lastConc = r.lastConc := rfl
@[simp] theorem Regs.setKindStg_lastValid (r : Regs) (k : PacketKind) : (r.setKindStg k).lastValid = r.lastValid := rfl

@[simp] theorem Regs.setData0_pos (r : Regs) (b : Byte) : (r.setData0 b).pos = r.pos := rfl
@[simp] theorem Regs.setData0_cksum (r : Regs) (b : Byte) : (r.setData0 b).cksum = r.cksum := rfl
@[simp] theorem Regs.setData0_kindStg (r : Regs) (b : Byte) : (r.setData0 b).kindStg = r.kindStg := rfl
@[simp] theorem Regs.setData0_data0 (r : Regs) (b : Byte) : (r.setData0 b).data0 = b := rfl
@[simp] theorem Regs.setData0_concStg (r : Regs) (b : Byte) : (r.setData0 b).concStg = r.concStg := rfl
@[simp] theorem Regs.setData0_lastConc (r : Regs) (b : Byte) : (r.setData0 b).lastConc = r.lastConc := rfl
@[simp] theorem Regs.setData0_lastValid (r : Regs) (b : Byte) : (r.setData0 b).lastValid = r.lastValid := rfl

@[simp] theorem Regs.setConcStg_pos (r : Regs) (v : Half) : (r.setConcStg v).pos = r.pos := rfl
@[simp] theorem Regs.setConcStg_cksum (r : Regs) (v : Half) : (r.setConcStg v).cksum = r.cksum := rfl
@[simp] theorem Regs.setConcStg_kindStg (r : Regs) (v : Half) : (r.setConcStg v).kindStg = r.kindStg := rfl
@[simp] theorem Regs.setConcStg_data0 (r : Regs) (v : Half) : (r.setConcStg v).data0 = r.data0 := rfl
@[simp] theorem Regs.setConcStg_concStg (r : Regs) (v : Half) : (r.setConcStg v).concStg = v := rfl
@[simp] theorem Regs.setConcStg_lastConc (r : Regs) (v : Half) : (r.setConcStg v).lastConc = r.lastConc := rfl
@[simp] theorem Regs.setConcStg_lastValid (r : Regs) (v : Half) : (r.setConcStg v).lastValid = r.lastValid := rfl

@[simp] theorem Regs.setReading_pos (r : Regs) (v : Half) : (r.setReading v).pos = r.pos := rfl
@[simp] theorem Regs.setReading_cksum (r : Regs) (v : Half) : (r.setReading v).cksum = r.cksum := rfl
@[simp] theorem Regs.setReading_kindStg (r : Regs) (v : Half) : (r.setReading v).kindStg = r.kindStg := rfl
@[simp] theorem Regs.setReading_data0 (r : Regs) (v : Half) : (r.setReading v).data0 = r.data0 := rfl
@[simp] theorem Regs.setReading_concStg (r : Regs) (v : Half) : (r.setReading v).concStg = r.concStg := rfl
@[simp] theorem Regs.setReading_lastConc (r : Regs) (v : Half) : (r.setReading v).lastConc = v := rfl
@[simp] theorem Regs.setReading_lastValid (r : Regs) (v : Half) : (r.setReading v).lastValid = true := rfl

@[simp] theorem Regs.fold_pos (r : Regs) (b : Byte) : (r.fold b).pos = r.pos := rfl
@[simp] theorem Regs.fold_cksum (r : Regs) (b : Byte) : (r.fold b).cksum = foldByte r.cksum b := rfl
@[simp] theorem Regs.fold_kindStg (r : Regs) (b : Byte) : (r.fold b).kindStg = r.kindStg := rfl
@[simp] theorem Regs.fold_data0 (r : Regs) (b : Byte) : (r.fold b).data0 = r.data0 := rfl
@[simp] theorem Regs.fold_concStg (r : Regs) (b : Byte) : (r.fold b).concStg = r.concStg := rfl
@[simp] theorem Regs.fold_lastConc (r : Regs) (b : Byte) : (r.fold b).lastConc = r.lastConc := rfl
@[simp] theorem Regs.fold_lastValid (r : Regs) (b : Byte) : (r.fold b).lastValid = r.lastValid := rfl

@[simp] theorem Regs.reset_pos : Regs.reset.pos = .sync := rfl
@[simp] theorem Regs.reset_cksum : Regs.reset.cksum = 0 := rfl
@[simp] theorem Regs.reset_kindStg : Regs.reset.kindStg = .incomplete := rfl
@[simp] theorem Regs.reset_data0 : Regs.reset.data0 = 0 := rfl
@[simp] theorem Regs.reset_concStg : Regs.reset.concStg = 0 := rfl
@[simp] theorem Regs.reset_lastConc : Regs.reset.lastConc = 0 := rfl
@[simp] theorem Regs.reset_lastValid : Regs.reset.lastValid = false := rfl

section
variable (s : State) (r : Regs) (k : PacketKind) (st : Status) (f : Option Frame)

@[simp] theorem State.complete_regs : (s.complete r k st f).regs = r := rfl
@[simp] theorem State.complete_out : (s.complete r k st f).out = some (resultOf r k st f) := rfl
@[simp] theorem State.complete_port : (s.complete r k st f).port = s.port := rfl

@[simp] theorem State.channelOpen_regs : s.channelOpen.regs = Regs.reset := rfl
@[simp] theorem State.channelOpen_out : s.channelOpen.out = some Result.reset := rfl
@[simp] theorem State.channelOpen_port : s.channelOpen.port = s.port := rfl

@[simp] theorem State.illegal_regs : s.illegal.regs = s.regs := rfl
@[simp] theorem State.illegal_out :
    s.illegal.out = some (resultOf s.regs .incomplete .illegalOperation none) := rfl
@[simp] theorem State.illegal_port : s.illegal.port = s.port := rfl

@[simp] theorem State.idle_regs : s.idle.regs = s.regs := rfl
@[simp] theorem State.idle_out : s.idle.out = none := rfl
@[simp] theorem State.idle_port : s.idle.port = s.port := rfl

@[simp] theorem State.present_regs (i : PortInput) : (s.present i).regs = s.regs := rfl
@[simp] theorem State.present_out (i : PortInput) : (s.present i).out = s.out := rfl
@[simp] theorem State.present_port (i : PortInput) : (s.present i).port = i :: s.port := rfl

@[simp] theorem resultOf_kind : (resultOf r k st f).kind = k := rfl
@[simp] theorem resultOf_conc : (resultOf r k st f).conc = r.lastConc := rfl
@[simp] theorem resultOf_concValid : (resultOf r k st f).concValid = r.lastValid := rfl
@[simp] theorem resultOf_status : (resultOf r k st f).status = st := rfl
@[simp] theorem resultOf_frameValid : (resultOf r k st f).frameValid = f.isSome := rfl
@[simp] theorem resultOf_frame_none : (resultOf r k st none).frame = 0 := rfl
@[simp] theorem resultOf_frame_some (F : Frame) : (resultOf r k st (some F)).frame = F.pack := rfl
end

@[simp] theorem State.reset_regs : State.reset.regs = Regs.reset := rfl
@[simp] theorem State.reset_out : State.reset.out = some Result.reset := rfl
@[simp] theorem State.reset_port : State.reset.port = [] := rfl

end Sys2Proof.Machine
end

