-- ==== Sys2Proof/Laws/Codec.lean ====
section
/-! SUPPORT. The codec's frames: the literal ones agree with the frame builder, and the set-range ones
are those of spec/41_codec.md R100. -/

namespace Sys2Proof.Machine

/-- spec/41_codec.md R94 -/
theorem requestReadingFrame_eq_build :
    requestReadingFrame = buildFrame Config.cmdReading 0 0 0 0 0 := by decide

/-- spec/41_codec.md R96 -/
theorem disableAbcFrame_eq_build :
    disableAbcFrame = buildFrame Config.cmdAbcOff 0 0 0 0 0 := by decide

theorem setRangeFrame_2000 :
    setRangeFrame 2000 = ⟨0xFF, 0x01, 0x99, 0x07, 0xD0, 0x00, 0x00, 0x00, 0x8F⟩ := by decide

theorem setRangeFrame_5000 :
    setRangeFrame 5000 = ⟨0xFF, 0x01, 0x99, 0x13, 0x88, 0x00, 0x00, 0x00, 0xCB⟩ := by decide

theorem setRangeFrame_10000 :
    setRangeFrame 10000 = ⟨0xFF, 0x01, 0x99, 0x27, 0x10, 0x00, 0x00, 0x00, 0x2F⟩ := by decide

theorem execEncSetRange_valid (r : Half) (s : State) (h : rangeIsValid r = true) :
    execEncSetRange r s = .next (s.complete s.regs .incomplete .ok (some (setRangeFrame r))) := by
  simp [execEncSetRange, h]

theorem execEncSetRange_invalid (r : Half) (s : State) (h : rangeIsValid r = false) :
    execEncSetRange r s = .next (s.complete s.regs .incomplete .invalidRange none) := by
  simp [execEncSetRange, h]

end Sys2Proof.Machine
end

