-- ==== Sys2Proof/Laws/Decode.lean ====
section
/-! SUPPORT. The fields of an operation word as numbers, and the fields of a word put together. -/

namespace Sys2Proof

theorem opField_toNat (w : OpWord) : (opField w).toNat = w.toNat / 65536 := by
  have := w.isLt
  rw [opField, BitVec.extractLsb'_toNat, Nat.shiftRight_eq_div_pow]
  omega

theorem argField_toNat (w : OpWord) : (argField w).toNat = w.toNat % 65536 := by
  rw [argField, BitVec.extractLsb'_toNat, Nat.shiftRight_eq_div_pow]
  omega

theorem byteField_toNat (w : OpWord) : (byteField w).toNat = w.toNat % 256 := by
  rw [byteField, BitVec.extractLsb'_toNat, Nat.shiftRight_eq_div_pow]
  omega

theorem highByteField_toNat (w : OpWord) : (highByteField w).toNat = w.toNat / 256 % 256 := by
  rw [highByteField, BitVec.extractLsb'_toNat, Nat.shiftRight_eq_div_pow]

theorem word_toNat (op : BitVec 3) (arg : Half) :
    (op ++ arg).toNat = 65536 * op.toNat + arg.toNat := by
  have h : arg.toNat < 2 ^ 16 := arg.isLt
  rw [BitVec.toNat_append, ← Nat.shiftLeft_add_eq_or_of_lt h, Nat.shiftLeft_eq]
  omega

theorem bytes_toNat (hi lo : Byte) : (hi ++ lo).toNat = 256 * hi.toNat + lo.toNat := by
  have h : lo.toNat < 2 ^ 8 := lo.isLt
  rw [BitVec.toNat_append, ← Nat.shiftLeft_add_eq_or_of_lt h, Nat.shiftLeft_eq]
  omega

theorem encode_toNat (i : Instr) :
    (encode i).toNat = 65536 * (opcode i).toNat + (operandBits i).toNat :=
  word_toNat _ _

theorem opField_encode (i : Instr) : opField (encode i) = opcode i := by
  apply BitVec.eq_of_toNat_eq
  have := (operandBits i).isLt
  rw [opField_toNat, encode_toNat]
  omega

theorem argField_encode (i : Instr) : argField (encode i) = operandBits i := by
  apply BitVec.eq_of_toNat_eq
  have := (operandBits i).isLt
  rw [argField_toNat, encode_toNat]
  omega

end Sys2Proof
end

