-- ==== Sys2Proof/Laws/Parser.lean ====
section
/-! SUPPORT. CONSUME's register update at each position, and what it can do. -/

namespace Sys2Proof.Machine

section
variable (b : Byte) (r : Regs)

theorem consumeRegs_sync (h : r.pos = .sync) : consumeRegs b r = consumeAtSync b r := by
  simp [consumeRegs, h]

theorem consumeRegs_address (h : r.pos = .address) : consumeRegs b r = consumeAtAddress b r := by
  simp [consumeRegs, h]

theorem consumeRegs_command (h : r.pos = .command) : consumeRegs b r = consumeAtCommand b r := by
  simp [consumeRegs, h]

theorem consumeRegs_data0 (h : r.pos = .data0) : consumeRegs b r = consumeAtData0 b r := by
  simp [consumeRegs, h]

theorem consumeRegs_data1 (h : r.pos = .data1) : consumeRegs b r = consumeAtData1 b r := by
  simp [consumeRegs, h]

theorem consumeRegs_padding (h : r.pos = .data2 ∨ r.pos = .data3 ∨ r.pos = .data4) :
    consumeRegs b r = consumeAtPadding b r := by
  rcases h with h | h | h <;> simp [consumeRegs, h]

theorem consumeRegs_checksum (h : r.pos = .checksum) :
    consumeRegs b r = consumeAtChecksum b r := by
  simp [consumeRegs, h]

theorem closesValidFrame_iff : closesValidFrame b r = true ↔ foldByte r.cksum b = 0 := by
  simp [closesValidFrame]

/-- Where CONSUME leaves the position (spec/40_parser.md R83). -/
theorem consumeRegs_pos :
    (consumeRegs b r).pos =
      if r.pos = .sync then (if b = 0xFF then .address else .sync) else r.pos.advance := by
  cases hp : r.pos
  case sync =>
    rw [consumeRegs_sync b r hp]; unfold consumeAtSync Config.sync; split_ifs <;> simp_all
  all_goals simp [consumeRegs, hp, consumeAtAddress, consumeAtCommand, consumeAtData0,
    consumeAtData1, consumeAtPadding, consumeAtChecksum, FramePos.advance]

/-- Outside the checksum position the kind is `Incomplete`. -/
theorem consumeKind_incomplete (h : r.pos ≠ .checksum) : consumeKind b r = .incomplete := by
  simp [consumeKind, h]

/-- A kind other than `Incomplete` is the staged kind of a frame that the byte closes. -/
theorem consumeKind_cases :
    consumeKind b r = .incomplete ∨
      (r.pos = .checksum ∧ foldByte r.cksum b = 0 ∧ consumeKind b r = r.kindStg) := by
  unfold consumeKind
  split_ifs with h
  · exact .inr ⟨h.1, (closesValidFrame_iff b r).1 h.2, rfl⟩
  · exact .inl rfl

/-- CONSUME writes the last known concentration in one case only. -/
theorem consumeRegs_reading_cases :
    ((consumeRegs b r).lastConc = r.lastConc ∧ (consumeRegs b r).lastValid = r.lastValid) ∨
      (r.pos = .checksum ∧ foldByte r.cksum b = 0 ∧ r.kindStg = .reading ∧
        (consumeRegs b r).lastConc = r.concStg ∧ (consumeRegs b r).lastValid = true) := by
  cases hp : r.pos
  case checksum =>
    rw [consumeRegs_checksum b r hp]
    unfold consumeAtChecksum
    split_ifs with h
    · exact .inr ⟨rfl, (closesValidFrame_iff b r).1 h.1, h.2, rfl, rfl⟩
    · exact .inl ⟨rfl, rfl⟩
  case sync =>
    rw [consumeRegs_sync b r hp]; unfold consumeAtSync; split_ifs <;> exact .inl ⟨rfl, rfl⟩
  case data1 =>
    rw [consumeRegs_data1 b r hp]; unfold consumeAtData1; split_ifs <;> exact .inl ⟨rfl, rfl⟩
  all_goals exact .inl (by simp [consumeRegs, hp, consumeAtAddress, consumeAtCommand,
    consumeAtData0, consumeAtPadding])

end

end Sys2Proof.Machine
end

