-- ==== Sys2Proof/Laws/PerInstr.lean ====
section
/-! SUPPORT. A fact about the syntax, constructor by constructor: where an encoding puts the code and
the operand, and that a well-formed operation writes zeros where its operand has no meaning. -/

namespace Sys2Proof.Laws.OpField

/-- The operand bits that mean something, as a number (spec/30_encoding.md R61). -/
def meaningfulOperand : Instr → Nat
  | .consume byte _ => byte.toNat
  | .encRead _ => 0
  | .encAbcOff _ => 0
  | .encSetRange range => range.toNat
  | .init _ => 0
  | .reserved5 _ => 0
  | .reserved6 _ => 0
  | .reserved7 _ => 0

/-- A well-formed operation's word is its code and its meaningful operand, nothing else
(spec/30_encoding.md R58, R63, R68). -/
def Statement (i : Instr) : Prop :=
  i.wellFormed = true → (encode i).toNat = 65536 * (opcode i).toNat + meaningfulOperand i

theorem consume (byte rsv : Byte) : Statement (.consume byte rsv) := by
  intro h
  obtain rfl : rsv = 0 := by simpa [Instr.wellFormed, Instr.opAssigned, Instr.reservedBitsZero] using h
  rw [encode_toNat]
  simp [meaningfulOperand, operandBits, bytes_toNat]

theorem encRead (rsv : Half) : Statement (.encRead rsv) := by
  intro h
  obtain rfl : rsv = 0 := by simpa [Instr.wellFormed, Instr.opAssigned, Instr.reservedBitsZero] using h
  exact encode_toNat _

theorem encAbcOff (rsv : Half) : Statement (.encAbcOff rsv) := by
  intro h
  obtain rfl : rsv = 0 := by simpa [Instr.wellFormed, Instr.opAssigned, Instr.reservedBitsZero] using h
  exact encode_toNat _

theorem encSetRange (range : Half) : Statement (.encSetRange range) := fun _ => encode_toNat _

theorem init (rsv : Half) : Statement (.init rsv) := by
  intro h
  obtain rfl : rsv = 0 := by simpa [Instr.wellFormed, Instr.opAssigned, Instr.reservedBitsZero] using h
  exact encode_toNat _

theorem reserved5 (arg : Half) : Statement (.reserved5 arg) := fun h => by
  simp [Instr.wellFormed, Instr.opAssigned] at h

theorem reserved6 (arg : Half) : Statement (.reserved6 arg) := fun h => by
  simp [Instr.wellFormed, Instr.opAssigned] at h

theorem reserved7 (arg : Half) : Statement (.reserved7 arg) := fun h => by
  simp [Instr.wellFormed, Instr.opAssigned] at h

end Sys2Proof.Laws.OpField
end

