-- ==== Sys2Proof/Laws/Step.lean ====
section
/-! SUPPORT. What an operation and a step can do, said once. -/

namespace Sys2Proof.Machine

/-- Everything an operation can do: CONSUME, a codec result that keeps the registers, INIT, or an
illegal operation. -/
theorem exec_cases (i : Instr) (s : State) :
    (∃ b rsv, i = .consume b rsv ∧
      exec i s = .next (s.complete (consumeRegs b s.regs) (consumeKind b s.regs) .ok none)) ∨
    (∃ F, (F = requestReadingFrame ∨ F = disableAbcFrame ∨
        ∃ r, rangeIsValid r = true ∧ F = setRangeFrame r) ∧
      exec i s = .next (s.complete s.regs .incomplete .ok (some F))) ∨
    (∃ r, i = .encSetRange r ∧ rangeIsValid r = false ∧
      exec i s = .next (s.complete s.regs .incomplete .invalidRange none)) ∨
    (∃ rsv, i = .init rsv ∧ exec i s = .next s.channelOpen) ∨
    ((∃ a, i = .reserved5 a ∨ i = .reserved6 a ∨ i = .reserved7 a) ∧
      exec i s = .next s.illegal) := by
  cases i with
  | consume b rsv => exact .inl ⟨b, rsv, rfl, rfl⟩
  | encRead rsv => exact .inr (.inl ⟨_, .inl rfl, rfl⟩)
  | encAbcOff rsv => exact .inr (.inl ⟨_, .inr (.inl rfl), rfl⟩)
  | encSetRange r =>
    cases h : rangeIsValid r
    · exact .inr (.inr (.inl ⟨r, rfl, h, execEncSetRange_invalid r s h⟩))
    · exact .inr (.inl ⟨_, .inr (.inr ⟨r, h, rfl⟩), execEncSetRange_valid r s h⟩)
  | init rsv => exact .inr (.inr (.inr (.inl ⟨rsv, rfl, rfl⟩)))
  | reserved5 a => exact .inr (.inr (.inr (.inr ⟨⟨a, .inl rfl⟩, rfl⟩)))
  | reserved6 a => exact .inr (.inr (.inr (.inr ⟨⟨a, .inr (.inl rfl)⟩, rfl⟩)))
  | reserved7 a => exact .inr (.inr (.inr (.inr ⟨⟨a, .inr (.inr rfl)⟩, rfl⟩)))

/-- Every operation ends by driving its outputs, and takes nothing from the port. -/
theorem exec_completes (i : Instr) (s : State) :
    ∃ r k st f, exec i s = .next (s.complete r k st f) := by
  rcases exec_cases i s with ⟨_, _, _, h⟩ | ⟨_, _, h⟩ | ⟨_, _, _, h⟩ | ⟨_, _, h⟩ | ⟨_, h⟩ <;>
    exact ⟨_, _, _, _, h⟩

/-- An operation reads the registers only: what it leaves there and drives is a function of them. -/
theorem exec_form (i : Instr) : ∃ g : Regs → Regs × PacketKind × Status × Option Frame,
    ∀ s, exec i s = .next (s.complete (g s.regs).1 (g s.regs).2.1 (g s.regs).2.2.1 (g s.regs).2.2.2) := by
  cases i with
  | consume b rsv => exact ⟨fun r => (consumeRegs b r, consumeKind b r, .ok, none), fun _ => rfl⟩
  | encRead rsv => exact ⟨fun r => (r, .incomplete, .ok, some requestReadingFrame), fun _ => rfl⟩
  | encAbcOff rsv => exact ⟨fun r => (r, .incomplete, .ok, some disableAbcFrame), fun _ => rfl⟩
  | encSetRange v =>
    cases h : rangeIsValid v
    · exact ⟨fun r => (r, .incomplete, .invalidRange, none), fun s => execEncSetRange_invalid v s h⟩
    · exact ⟨fun r => (r, .incomplete, .ok, some (setRangeFrame v)),
        fun s => execEncSetRange_valid v s h⟩
  | init rsv => exact ⟨fun _ => (Regs.reset, .incomplete, .ok, none), fun _ => rfl⟩
  | reserved5 a => exact ⟨fun r => (r, .incomplete, .illegalOperation, none), fun _ => rfl⟩
  | reserved6 a => exact ⟨fun r => (r, .incomplete, .illegalOperation, none), fun _ => rfl⟩
  | reserved7 a => exact ⟨fun r => (r, .incomplete, .illegalOperation, none), fun _ => rfl⟩

/-- Everything a step can do: an idle step, a reset step, or the operation presented. -/
theorem step_cases (s : State) :
    (∃ rest, (s.port = [] ∧ rest = [] ∨ ∃ i, s.port = i :: rest ∧ i.rst = false ∧ i.opw = none) ∧
      step s = .next (State.idle { s with port := rest })) ∨
    (∃ i rest, s.port = i :: rest ∧ i.rst = true ∧
      step s = .next (State.channelOpen { s with port := rest })) ∨
    (∃ i w rest, s.port = i :: rest ∧ i.rst = false ∧ i.opw = some w ∧
      step s = exec (decode w) { s with port := rest }) := by
  rcases hp : s.port with _ | ⟨i, rest⟩
  · refine .inl ⟨[], .inl ⟨rfl, rfl⟩, ?_⟩
    simp [step, hp, State.idle]
  · cases hr : i.rst
    · cases hw : i.opw with
      | none => exact .inl ⟨rest, .inr ⟨i, rfl, hr, hw⟩, by simp [step, hp, stepOn, hr, hw]⟩
      | some w =>
        exact .inr (.inr ⟨i, w, rest, rfl, hr, hw, by simp [step, hp, stepOn, hr, hw]⟩)
    · exact .inr (.inl ⟨i, rest, rfl, hr, by simp [step, hp, stepOn, hr, resetStep]⟩)

/-- The step on what is presented next is the step on it, at the state itself. -/
theorem step_present (i : PortInput) (s : State) : step (s.present i) = stepOn i s := rfl

/-- A step answers a next state and takes one entry of the port. -/
theorem step_next (s : State) : ∃ t, step s = .next t ∧ t.port = s.port.tail := by
  rcases step_cases s with ⟨rest, h, e⟩ | ⟨i, rest, hp, _, e⟩ | ⟨i, w, rest, hp, _, _, e⟩
  · refine ⟨_, e, ?_⟩
    rcases h with ⟨hp, rfl⟩ | ⟨i, hp, _⟩ <;> simp [hp]
  · exact ⟨_, e, by simp [hp]⟩
  · obtain ⟨r, k, st, f, h⟩ := exec_completes (decode w) { s with port := rest }
    exact ⟨_, e.trans h, by simp [hp]⟩

end Sys2Proof.Machine
end

