-- ==== Sys2Proof/Laws/Run.lean ====
section
/-! SUPPORT. Runs: how `observe` unfolds and composes. -/

namespace Sys2Proof.Machine

@[simp] theorem observe_nil (s : State) : observe [] s = .next ([], s) := rfl

theorem observe_cons {i : PortInput} {rest : List PortInput} {s s' t : State}
    {outs : List (Option Result)} (h : step (s.present i) = .next s')
    (h' : observe rest s' = .next (outs, t)) :
    observe (i :: rest) s = .next (s'.out :: outs, t) := by
  simp [observe, h, h']

/-- A run over `xs ++ ys` is the run over `xs` followed by the run over `ys`. -/
theorem observe_append {xs ys : List PortInput} {s t u : State} {o o' : List (Option Result)}
    (h : observe xs s = .next (o, t)) (h' : observe ys t = .next (o', u)) :
    observe (xs ++ ys) s = .next (o ++ o', u) := by
  induction xs generalizing s o with
  | nil =>
    simp only [observe_nil, Host.Outcome.next.injEq, Prod.mk.injEq] at h
    obtain ⟨rfl, rfl⟩ := h
    simpa using h'
  | cons i rest ih =>
    obtain ⟨s', hs, -⟩ := step_next (s.present i)
    simp only [observe, hs] at h
    cases hr : observe rest s' with
    | fault f => simp [hr] at h
    | refused r => simp [hr] at h
    | next p =>
      obtain ⟨outs, v⟩ := p
      simp only [hr, Host.Outcome.next.injEq, Prod.mk.injEq] at h
      obtain ⟨rfl, rfl⟩ := h
      simpa using observe_cons hs (ih hr)

/-- A run of a machine, one step unfolded. -/
theorem run_succ_of_next (M : Host.Core) {s t : M.State} (h : M.step s = .next t) (n : Nat) :
    M.run (n + 1) s = M.run n t := by
  simp [Host.Core.run, h]

/-- A run of the engine, one step unfolded. -/
theorem core_run_succ {s t : State} (h : step s = .next t) (n : Nat) :
    Sys2Proof.core.run (n + 1) s = Sys2Proof.core.run n t :=
  run_succ_of_next Sys2Proof.core h n

@[simp] theorem feed_nil : feed [] = [] := rfl
@[simp] theorem feed_cons (b : Byte) (bs : List Byte) :
    feed (b :: bs) = presentWord (encode (.consume b 0)) :: feed bs := rfl
@[simp] theorem feed_append (xs ys : List Byte) : feed (xs ++ ys) = feed xs ++ feed ys := by
  simp [feed]

end Sys2Proof.Machine
end

