-- ==== Sys2Proof/Tests/Slice0.lean ====
section
/-! SUPPORT. Tests: words written out from the spec's encoding tables, single steps of
spec/95_test_vectors.md, the well-formedness smoke tests, and a witness for the hypotheses of every
statement that has some. -/

namespace Sys2Proof.Tests
open Sys2Proof Sys2Proof.Machine

/-! ### Helpers -/

/-- The registers of a next state. -/
def regsOf : Host.Outcome State Fault Refusal → Option Regs
  | .next t => some t.regs
  | .fault _ => none
  | .refused _ => none

/-- The outputs of a next state. -/
def outOf : Host.Outcome State Fault Refusal → Option Result
  | .next t => t.out
  | .fault _ => none
  | .refused _ => none

/-- A state with chosen registers and nothing presented. -/
def holding (r : Regs) : State := { State.reset with regs := r }

/-- Registers with the parser at a position, the others as after reset. -/
def regsAt (p : FramePos) : Regs := Regs.reset.setPos p

/-- Before the checksum byte of a `Reading` frame of value 1234 whose bytes so far sum to 0x10 (D-P17). -/
def readingPending : Regs := (((regsAt .checksum).setCksum 0x10).setKindStg .reading).setConcStg 1234

/-- The parser at a position, with 400 as the last known concentration. -/
def knows400 (p : FramePos) : Regs := (regsAt p).setReading 400

/-- At Sync, with what a corrupt `Reading` frame of 400 leaves in the internal registers. -/
def leftovers : Regs := ((((regsAt .sync).setCksum 0x5A).setKindStg .reading).setData0 1).setConcStg 400

/-! ### Well-formedness: one ill-formed term for each check -/

theorem smoke_reserved_code_refused : (Instr.reserved5 0).wellFormed = false := by decide
theorem smoke_reserved_code_6_refused : (Instr.reserved6 0).wellFormed = false := by decide
theorem smoke_reserved_code_7_refused : (Instr.reserved7 0).wellFormed = false := by decide
theorem smoke_consume_reserved_bits_refused : (Instr.consume 0xFF 0xAB).wellFormed = false := by decide
theorem smoke_encRead_reserved_bits_refused : (Instr.encRead 0xBEEF).wellFormed = false := by decide
theorem smoke_encAbcOff_reserved_bits_refused : (Instr.encAbcOff 1).wellFormed = false := by decide
theorem smoke_init_reserved_bits_refused : (Instr.init 0x8000).wellFormed = false := by decide
theorem smoke_well_formed_accepted :
    (Instr.consume 0xFF 0).wellFormed = true ∧ (Instr.encRead 0).wellFormed = true ∧
    (Instr.encAbcOff 0).wellFormed = true ∧ (Instr.encSetRange 3000).wellFormed = true ∧
    (Instr.init 0).wellFormed = true := by decide

/-! ### Decoding, from words written bit by bit: op (3 bits), then the 16 operand bits -/

/-- R59: op 000; D-P21: reserved bits 0xAB, byte 0xFF. -/
theorem test_decode_consume : decode 0b000_10101011_11111111 = .consume 0xFF 0xAB := by decide
theorem test_decode_encRead : decode 0b001_0000000000000000 = .encRead 0 := by decide
theorem test_decode_encAbcOff : decode 0b010_0000000000000000 = .encAbcOff 0 := by decide
/-- R68: `ENC_SET_RANGE 2000` = 0x307D0. -/
theorem test_decode_encSetRange : decode 0b011_0000011111010000 = .encSetRange 2000 := by decide
theorem test_decode_init : decode 0b100_0000000000000000 = .init 0 := by decide
theorem test_decode_reserved5 : decode 0b101_0000000000000000 = .reserved5 0 := by decide
theorem test_decode_reserved6 : decode 0b110_0000000000000000 = .reserved6 0 := by decide
/-- D-X3: word 7FFFF. -/
theorem test_decode_reserved7 : decode 0b111_1111111111111111 = .reserved7 0xFFFF := by decide

/-- R68: the example words. -/
theorem test_encode_examples :
    encode (.consume 0xFF 0) = 0x000FF ∧ encode (.encSetRange 10000) = 0x32710 ∧
    encode (.init 0) = 0x40000 := by decide

theorem test_table_word : decodeTableWord 24 0x31388 = some (.encSetRange 5000) := by decide
theorem test_table_word_too_wide : decodeTableWord 24 0x80000 = none := by decide
theorem test_too_wide_is_named : toOpWord 0x80000 = .error .widerThanPort := by
  simp [toOpWord]

/-- The rows of spec/opcode_table.json: mask 0x70000 and these patterns, no two of which overlap and
each of which the decoder takes for its own row. -/
theorem test_table_rows_do_not_overlap :
    List.Pairwise (fun a b : OpWord => a &&& 0x70000 ≠ b &&& 0x70000)
      [0x00000, 0x10000, 0x20000, 0x30000, 0x40000, 0x50000, 0x60000, 0x70000] := by decide

/-! ### Single steps of spec/95_test_vectors.md -/

/-- D-P3: an accepted sync byte discards the old sum. -/
theorem test_consume_sync_clears_checksum :
    regsOf (exec (.consume 0xFF 0) (holding { regsAt .sync with cksum := 0x5A }))
      = some (regsAt .address) := by decide

/-- D-P17: the closing byte of a valid `Reading` shows the new value in its own step. -/
theorem test_consume_reading_updates_outputs :
    outOf (exec (.consume 0xF0 0) (holding readingPending))
      = some ⟨.reading, 1234, true, .ok, false, 0⟩ := by decide

/-- L1-1 and R93: the packed request frame `79 00 00 00 00 00 86 01 FF`. -/
theorem test_encRead_frame :
    (outOf (exec (.encRead 0) State.reset)).map (fun o => (o.frameValid, o.status, o.frame))
      = some (true, .ok, 0x79_00_00_00_00_00_86_01_FF) := by decide

/-- D-C8: in mid-frame the registers are untouched and the kind is `Incomplete`. -/
theorem test_encRead_mid_frame :
    regsOf (exec (.encRead 0) (holding (regsAt .data2))) = some (regsAt .data2) := by decide

/-- L1-2 and R95: bytes `FF 01 79 00 00 00 00 00 86` in offset order. -/
theorem test_encAbcOff_sends :
    (outOf (exec (.encAbcOff 0) State.reset)).map sendBytes
      = some [0xFF, 0x01, 0x79, 0x00, 0x00, 0x00, 0x00, 0x00, 0x86] := by rfl

/-- D-C6: range 10000. -/
theorem test_encSetRange_10000_sends :
    (outOf (exec (.encSetRange 10000) State.reset)).map sendBytes
      = some [0xFF, 0x01, 0x99, 0x27, 0x10, 0x00, 0x00, 0x00, 0x2F] := by rfl

/-- D-C5: 2000 byte-swapped is rejected, and nothing is sent. -/
theorem test_encSetRange_swapped_rejected :
    (outOf (exec (.encSetRange 0xD007) State.reset)).map
      (fun o => (o.status, o.frameValid, o.frame, sendBytes o))
      = some (.invalidRange, false, 0, []) := by decide

/-- D-X1. -/
theorem test_init_resets_mid_frame :
    regsOf (exec (.init 0) (holding (knows400 .data2)))
      = some Regs.reset := by decide

/-- D-X2: status 2, kind 0, no frame, `OUT.conc` = 400, registers unchanged. -/
theorem test_reserved5_status :
    outOf (exec (.reserved5 0) (holding (knows400 .data2)))
      = some ⟨.incomplete, 400, true, .illegalOperation, false, 0⟩ := by decide

/-- D-X3: word 60000 from mid-frame. -/
theorem test_reserved6_keeps_registers :
    regsOf (exec (decode 0x60000) (holding (regsAt .data2))) = some (regsAt .data2) := by decide

/-- D-X3: word 7FFFF from mid-frame. -/
theorem test_reserved7_keeps_registers :
    regsOf (exec (decode 0x7FFFF) (holding (regsAt .data2))) = some (regsAt .data2) := by decide

/-- D-X4: the reset input with CONSUME 0xFF presented; the CONSUME is not performed. -/
theorem test_reset_input_wins :
    regsOf (step ((holding (regsAt .data2)).present { rst := true, opw := some 0x000FF }))
      = some Regs.reset := by decide

/-- The word a table row gives is the one the next step runs: CONSUME 0xFF from reset moves `POS` to 1
(D-P2). -/
theorem test_withFetchWord_runs_first :
    regsOf (step (State.reset.withFetchWord 24 0x000FF)) = some (regsAt .address) := by decide

/-! ### Witnesses for the hypotheses of the statements -/

/-- A word of each code, at both ends of the code's range. -/
theorem witness_OperationCodeSelectsOperation :
    ((0x00000 : OpWord).toNat / 65536 = 0 ∧ (0x0FFFF : OpWord).toNat / 65536 = 0) ∧
    ((0x10000 : OpWord).toNat / 65536 = 1 ∧ (0x1FFFF : OpWord).toNat / 65536 = 1) ∧
    ((0x20000 : OpWord).toNat / 65536 = 2 ∧ (0x2FFFF : OpWord).toNat / 65536 = 2) ∧
    ((0x30000 : OpWord).toNat / 65536 = 3 ∧ (0x3FFFF : OpWord).toNat / 65536 = 3) ∧
    ((0x40000 : OpWord).toNat / 65536 = 4 ∧ (0x4FFFF : OpWord).toNat / 65536 = 4) ∧
    ((0x50000 : OpWord).toNat / 65536 = 5 ∧ (0x5FFFF : OpWord).toNat / 65536 = 5) ∧
    ((0x60000 : OpWord).toNat / 65536 = 6 ∧ (0x6FFFF : OpWord).toNat / 65536 = 6) ∧
    ((0x70000 : OpWord).toNat / 65536 = 7 ∧ (0x7FFFF : OpWord).toNat / 65536 = 7) := by decide

/-- Words of CONSUME, ENC_READ, ENC_ABC_OFF and INIT with reserved bits set, which clearing changes. -/
theorem witness_ReservedOperandBitsIgnored :
    ((0x0ABFF : OpWord).toNat / 65536 = 0 ∧ (0x0ABFF : OpWord) &&& 0x700FF = 0x000FF) ∧
    ((0x1BEEF : OpWord).toNat / 65536 = 1 ∧ (0x1BEEF : OpWord) &&& 0x70000 = 0x10000) ∧
    ((0x28001 : OpWord).toNat / 65536 = 2 ∧ (0x28001 : OpWord) &&& 0x70000 = 0x20000) ∧
    ((0x4FFFF : OpWord).toNat / 65536 = 4 ∧ (0x4FFFF : OpWord) &&& 0x70000 = 0x40000) := by decide

theorem witness_StepRunsPresentedOperation :
    (State.reset.present (presentWord 0x307D0)).port = { rst := false, opw := some 0x307D0 } :: [] ∧
    decode 0x307D0 = .encSetRange 2000 := by decide

theorem witness_ResetInputOverridesOperation :
    ((holding (regsAt .data2)).present { rst := true, opw := some 0x000FF }).port
      = { rst := true, opw := some 0x000FF } :: [] := by decide

theorem witness_IdleEngineHoldsRegisters :
    (∀ i ∈ State.reset.port, i.rst = false ∧ i.opw = none) ∧
    (∀ i ∈ (State.reset.present presentNothing).port, i.rst = false ∧ i.opw = none) := by decide

theorem witness_PortOrderIsAFold : State.reset.port = [] := by decide

/-- Two different states with equal registers, and a codec operation. -/
theorem witness_OnlyRegistersCarry :
    State.reset.regs = State.reset.idle.regs ∧ State.reset ≠ State.reset.idle ∧
    IsCodec (.encSetRange 2000) ∧
    (holding (regsAt .data2)).regs.lastConc = State.reset.regs.lastConc ∧
    (holding (regsAt .data2)).regs.lastValid = State.reset.regs.lastValid :=
  ⟨by decide, by decide, .inr (.inr ⟨_, rfl⟩), by decide, by decide⟩

theorem witness_ConsumeAtSync :
    (holding (regsAt .sync)).regs.pos = .sync ∧ (0xFE : Byte) ≠ 0xFF ∧ (0xFF : Byte) = 0xFF := by decide
theorem witness_ConsumeAtAddress : (holding (regsAt .address)).regs.pos = .address := by decide
theorem witness_ConsumeAtCommand : (holding (regsAt .command)).regs.pos = .command := by decide
theorem witness_ConsumeAtDataZero : (holding (regsAt .data0)).regs.pos = .data0 := by decide

/-- A `Reading` frame (D-P20) and another one (D-P19) at data byte 1. -/
theorem witness_ConsumeAtDataOne :
    (holding { regsAt .data1 with kindStg := .reading, data0 := 0x12 }).regs.pos = .data1 ∧
    (holding { regsAt .data1 with kindStg := .reading, data0 := 0x12 }).regs.kindStg = .reading ∧
    (holding { regsAt .data1 with kindStg := .abcOff }).regs.pos = .data1 ∧
    (holding { regsAt .data1 with kindStg := .abcOff }).regs.kindStg ≠ .reading := by decide

theorem witness_ConsumeAtPadding :
    (holding (regsAt .data2)).regs.pos = .data2 ∧ (holding (regsAt .data3)).regs.pos = .data3 ∧
    (holding (regsAt .data4)).regs.pos = .data4 := by decide

/-- D-P17, the same with another kind (D-P16), both meeting the invariant. -/
theorem witness_ConsumeClosesValidFrame :
    ∃ s t : State, (s.regs.pos = .checksum ∧ s.regs.cksum + 0xF0 = 0 ∧ s.regs.kindStg = .reading ∧
        s.regs.Inv) ∧
      (t.regs.pos = .checksum ∧ t.regs.cksum + 0xF0 = 0 ∧ t.regs.kindStg ≠ .reading ∧ t.regs.Inv) := by
  refine ⟨holding { regsAt .checksum with cksum := 0x10, kindStg := .reading, data0 := 4, concStg := 1234 },
    holding { regsAt .checksum with cksum := 0x10, kindStg := .abcOff }, ?_, ?_⟩ <;>
    (refine ⟨by decide, by decide, by decide, ?_⟩; unfold Regs.Inv; decide)

/-- D-P18. -/
theorem witness_ConsumeDiscardsCorruptFrame :
    (holding { regsAt .checksum with cksum := 0x10, kindStg := .reading }).regs.pos = .checksum ∧
    (holding { regsAt .checksum with cksum := 0x10, kindStg := .reading }).regs.cksum + 0xF1 ≠ 0 := by
  decide

/-- Both ends of `POS` 0..7, and a position outside it. -/
theorem witness_ConsumeOutputs :
    (regsAt .sync).pos.index ≤ 7 ∧ (regsAt .data4).pos.index ≤ 7 ∧ ¬ (regsAt .checksum).pos.index ≤ 7 := by
  decide

/-- Each clause at its boundary positions; a step that reports a packet (D-P17). -/
theorem witness_ConsumeMovesPosition :
    (1 ≤ (regsAt .address).pos.index ∧ (regsAt .data4).pos.index ≤ 7) ∧
    (regsAt .checksum).pos.index = 8 ∧ (regsAt .sync).pos.index = 0 ∧ (0xFE : Byte) ≠ 0xFF ∧
    (outOf (exec (.consume 0xF0 0) (holding { regsAt .checksum with cksum := 0x10, kindStg := .reading }))).map
      (fun o => decide (o.kind ≠ .incomplete)) = some true := by decide

/-- Not at Sync at both ends of 1..8; at Sync with 1 and with 8 bytes. -/
theorem witness_ChecksumAccumulates :
    (regsAt .address).pos ≠ .sync ∧ (regsAt .checksum).pos ≠ .sync ∧ State.reset.regs.pos = .sync ∧
    1 ≤ ([0x01] : List Byte).length ∧ (List.replicate 8 (0xFF : Byte)).length ≤ 8 := by decide

/-- The frame of L1-4 (a valid `Reading` of 400), a corrupt one (L1-8), a valid one of another kind. -/
theorem witness_AlignedFrameIsDecoded :
    State.reset.regs.pos = .sync ∧
    ((⟨0xFF, 0x01, 0x86, 0x01, 0x90, 0, 0, 0, 0xE8⟩ : Frame).sumChecked % 256 = 0) ∧
    ((⟨0xFF, 0x01, 0x86, 0x02, 0x00, 0, 0, 0, 0xE8⟩ : Frame).sumChecked % 256 ≠ 0) ∧
    ((⟨0xFF, 0x01, 0x79, 0, 0, 0, 0, 0, 0x86⟩ : Frame).sumChecked % 256 = 0) := by decide

theorem witness_OneChecksumByteIsAccepted :
    State.reset.regs.pos = .sync ∧ (⟨0xFF, 0x01, 0x86, 0x01, 0x90, 0, 0, 0, 0⟩ : Frame).sync = 0xFF := by
  decide

/-- `POS = 1` with 8 bytes, `POS = 2` with 7, `POS = 3` with 6 (D-P16) and `POS = 8` with 1; sums that
close and do not close the window. -/
theorem witness_MisalignedBytesEndTheWindow :
    (regsAt .address).pos ≠ .sync ∧
    ([0xE9, 0xFF, 0x01, 0x86, 0x01, 0x90, 0, 0] : List Byte).length = 9 - (regsAt .address).pos.index ∧
    ([0xE9, 0xFF, 0x01, 0x86, 0x01, 0x90, 0, 0].map (BitVec.toNat (w := 8))).sum % 256 = 0 ∧
    ([0xFF, 0x01, 0x86, 0x01, 0x90, 0, 0] : List Byte).length = 9 - (regsAt .command).pos.index ∧
    (0xE9 + ([0xFF, 0x01, 0x86, 0x01, 0x90, 0, 0].map (BitVec.toNat (w := 8))).sum) % 256 = 0 ∧
    ([0, 0, 0, 0, 0, 0xF0] : List Byte).length = 9 - (regsAt .data0).pos.index ∧
    3 ≤ (regsAt .data0).pos.index ∧ (0x10 + 0xF0) % 256 = 0 ∧
    ([0xF1] : List Byte).length = 9 - (regsAt .checksum).pos.index ∧ (0x10 + 0xF1) % 256 ≠ 0 := by
  decide

/-- D-P15 (one byte short) and D-P16 (exactly enough); 8 bytes from Sync. -/
theorem witness_RecoveryBound :
    (regsAt .data0).pos ≠ .sync ∧ (List.replicate 5 (0 : Byte)).length < 9 - (regsAt .data0).pos.index ∧
    (List.replicate 6 (0 : Byte)).length = 9 - (regsAt .data0).pos.index ∧
    State.reset.regs.pos = .sync ∧ (List.replicate 8 (0xFF : Byte)).length = 8 := by decide

/-- L1-7 for case (a), D-P22 for case (b), and the frame of D-P22 after either. -/
theorem witness_QuietBytesAlign :
    (State.reset.regs.pos = .sync ∧ (0xFF : Byte) ∉ [0x12, 0x34, 0x56]) ∧
    (8 ≤ ([0x12, 0x34, 0xFF, 0x56, 0, 0, 0, 0, 0, 0, 0] : List Byte).length ∧
      (0xFF : Byte) ∉ ([0x12, 0x34, 0xFF, 0x56, 0, 0, 0, 0, 0, 0, 0] : List Byte).drop (11 - 8)) ∧
    (⟨0xFF, 0x01, 0x86, 0x03, 0x52, 0, 0, 0, 0x24⟩ : Frame).sumChecked % 256 = 0 := by decide

/-- Two states at Sync that agree on `LAST_CONC` and `LAST_VALID` only. -/
theorem witness_InternalRegistersAreUnobservable :
    State.reset.regs.pos = .sync ∧ (holding leftovers).regs.pos = .sync ∧
    State.reset.regs.lastConc = (holding leftovers).regs.lastConc ∧
    State.reset.regs.lastValid = (holding leftovers).regs.lastValid ∧
    State.reset.regs ≠ (holding leftovers).regs := by decide

theorem witness_EncReadDrivesRequest :
    State.reset.regs.pos = .sync ∧ (0x10000 : OpWord).toNat / 65536 = 1 := by decide
theorem witness_EncAbcOffDrivesDisable :
    State.reset.regs.pos = .sync ∧ (0x2FFFF : OpWord).toNat / 65536 = 2 := by decide
theorem witness_InitRestoresChannelOpen : (0x40000 : OpWord).toNat / 65536 = 4 := by decide

/-- The three ranges, and their neighbours (D-C3, D-C4) and ends (D-C1, D-C2), which fall under the
other clause. -/
theorem witness_EncSetRangeDrivesFrameOrError :
    (0x31388 : OpWord).toNat / 65536 = 3 ∧
    (2000 : Half).toNat = 2000 ∧ (5000 : Half).toNat = 5000 ∧ (10000 : Half).toNat = 10000 ∧
    (∀ r ∈ ([0, 1999, 2001, 3000, 65535] : List Half),
      r.toNat ≠ 2000 ∧ r.toNat ≠ 5000 ∧ r.toNat ≠ 10000) :=
  ⟨by decide, by simp⟩

/-- spec/95_test_vectors.md section 2.1: `s = 0` and `s ≠ 0`. -/
theorem witness_ChecksumFormula :
    (⟨0xFF, 0x01, 0x99, 0x66, 0, 0, 0, 0, 0⟩ : Frame).sumBody % 256 = 0 ∧
    (⟨0xFF, 0x01, 0x99, 0x07, 0xD0, 0, 0, 0, 0⟩ : Frame).sumBody % 256 = 0x71 := by decide

theorem witness_ValidFrameHasItsChecksum :
    (⟨0xFF, 0x01, 0x86, 0, 0, 0, 0, 0, 0x79⟩ : Frame).sync = 0xFF ∧
    (⟨0xFF, 0x01, 0x86, 0, 0, 0, 0, 0, 0x79⟩ : Frame).sumChecked % 256 = 0 := by decide

/-- An operation that drives a frame. -/
theorem witness_BuiltFramesAreChecksumValid :
    (∃ t o, exec (.encRead 0) State.reset = .next t ∧ t.out = some o ∧ o.frameValid = true) ∧
    State.reset.regs.pos = .sync :=
  ⟨⟨_, _, rfl, rfl, rfl⟩, rfl⟩

theorem witness_PackedFrameBytes :
    (0 < 9 ∧ 8 < 9) ∧
    ∃ t o, exec (.encAbcOff 0) State.reset = .next t ∧ t.out = some o ∧ o.frameValid = true :=
  ⟨by decide, _, _, rfl, rfl, rfl⟩

theorem witness_CodecIsStateless :
    IsCodec (.encRead 0) ∧ IsCodec (.encAbcOff 0) ∧ IsCodec (.encSetRange 3000) :=
  ⟨.inl ⟨_, rfl⟩, .inr (.inl ⟨_, rfl⟩), .inr (.inr ⟨_, rfl⟩)⟩

theorem witness_CodecOperationsCommute : IsCodec (decode 0x31388) :=
  .inr (.inr ⟨5000, by decide⟩)

/-- Each of the codec's operations, with its kind. -/
theorem witness_CodecFramesParseBack :
    State.reset.regs.pos = .sync ∧ (∃ rsv, Instr.encRead 0 = .encRead rsv) ∧
    (∃ rsv, Instr.encAbcOff 0 = .encAbcOff rsv) ∧
    (∃ r, Instr.encSetRange 10000 = .encSetRange r ∧
      (r.toNat = 2000 ∨ r.toNat = 5000 ∨ r.toNat = 10000)) :=
  ⟨by decide, ⟨_, rfl⟩, ⟨_, rfl⟩, ⟨_, rfl, .inr (.inr (by decide))⟩⟩

theorem witness_ReservedCodesAreIllegal :
    (∃ i : Instr, i = .reserved5 0xFFFF ∨ i = .reserved6 0xFFFF ∨ i = .reserved7 0xFFFF) ∧
    5 ≤ (0x50000 : OpWord).toNat / 65536 ∧ 5 ≤ (0x7FFFF : OpWord).toNat / 65536 :=
  ⟨⟨_, .inl rfl⟩, by decide, by decide⟩

/-- A reset step and an INIT step from mid-frame. -/
theorem witness_ResetRegisterValues :
    (∃ s t opw rest, s.port = { rst := true, opw := opw } :: rest ∧ step s = .next t ∧
      s.regs.pos ≠ .sync) ∧
    (∃ s t w rest rsv, s.port = presentWord w :: rest ∧ decode w = .init rsv ∧ step s = .next t ∧
      s.regs.pos ≠ .sync) :=
  ⟨⟨(holding (regsAt .data2)).present presentReset, _, _, _, rfl, rfl, by decide⟩,
    ⟨(holding (regsAt .data2)).present (presentWord 0x40000), _, 0x40000, _, 0, rfl, by decide, rfl,
      by decide⟩⟩

/-- A state in mid-frame that meets the invariant, with a byte presented. -/
theorem witness_StepKeepsInvariant :
    ∃ s t : State, s.Inv ∧ step s = .next t ∧ s.regs.pos = .data1 ∧ t.regs.pos = .data2 := by
  refine ⟨{ regs := { regsAt .data1 with kindStg := .reading, data0 := 0x01 }, out := none,
            port := [presentWord 0x00090] }, _, ⟨?_, fun o h => by cases h⟩, rfl, by decide, by decide⟩
  unfold Regs.Inv
  decide

/-- A step that changes `LAST_CONC` (D-P17), one by INIT and one by reset. -/
theorem witness_LastConcentrationHasOneWriter :
    (regsOf (step ((holding readingPending).present (presentWord 0x000F0)))).map Regs.lastConc = some 1234 ∧
    (regsOf (step ((holding (knows400 .sync)).present (presentWord 0x40000)))).map Regs.lastConc = some 0 ∧
    (regsOf (step ((holding (knows400 .sync)).present presentReset))).map Regs.lastConc = some 0 := by decide

/-- `LAST_VALID` rises at a decoded reading and falls by INIT and reset. -/
theorem witness_LastValidFollowsReadings :
    (regsOf (step ((holding readingPending).present (presentWord 0x000F0)))).map Regs.lastValid = some true ∧
    decode 0x000F0 = .consume 0xF0 0 ∧ decode 0x40000 = .init 0 ∧
    (regsOf (step ((holding (knows400 .sync)).present (presentWord 0x40000)))).map Regs.lastValid = some false ∧
    (regsOf (step ((holding (knows400 .sync)).present presentReset))).map Regs.lastValid = some false := by decide

/-- Each case of the matrix is met: a discarded byte, positions outside the writing ones, a frame that
is not a valid `Reading`; and every kind of operation that writes nothing. -/
theorem witness_WriteMatrix :
    (regsAt .sync).pos = .sync ∧ (0xFE : Byte) ≠ 0xFF ∧ (regsAt .address).pos ≠ .command ∧
    (regsAt .address).pos ≠ .data0 ∧ ¬ ((regsAt .data1).pos = .data1 ∧ (regsAt .data1).kindStg = .reading) ∧
    ¬ ((regsAt .checksum).pos = .checksum ∧
        ((regsAt .checksum).cksum.toNat + (0x01 : Byte).toNat) % 256 = 0 ∧
        (regsAt .checksum).kindStg = .reading) ∧
    IsCodec (.encAbcOff 0) :=
  ⟨by decide, by decide, by decide, by decide, by decide, by decide, .inr (.inl ⟨_, rfl⟩)⟩

/-- A CONSUME that closes a valid frame and one that does not; the ranges of both clauses. -/
theorem witness_EveryOperationDrivesItsOutputs :
    ((regsAt .checksum).pos = .checksum ∧ ((0x10 : Byte).toNat + (0xF0 : Byte).toNat) % 256 = 0) ∧
    ¬ ((regsAt .checksum).pos = .checksum ∧ ((0x10 : Byte).toNat + (0xF1 : Byte).toNat) % 256 = 0) ∧
    (10000 : Half).toNat = 10000 ∧ (9999 : Half).toNat ≠ 10000 := by decide

end Sys2Proof.Tests
end

/-! PROOFS of the statements about the registers (spec/10_state.md): what a step does to the port's
head, which steps write `LAST_CONC` and `LAST_VALID`, and what the outputs show. -/

namespace Sys2Proof.Machine

/-! ### The presented operation -/

theorem exec_consume (b rsv : Byte) (s : State) : exec (.consume b rsv) s =
    .next (s.complete (consumeRegs b s.regs) (consumeKind b s.regs) .ok none) := rfl

theorem exec_init (rsv : Half) (s : State) : exec (.init rsv) s = .next s.channelOpen := rfl

/-- A codec operation keeps the registers; its status and its frame do not depend on the state
(spec/41_codec.md R91). -/
theorem exec_codec {i : Instr} (h : IsCodec i) :
    ∃ st f, ∀ s, exec i s = .next (s.complete s.regs .incomplete st f) := by
  obtain ⟨_, rfl⟩ | ⟨_, rfl⟩ | ⟨v, rfl⟩ := h
  · exact ⟨_, _, fun _ => rfl⟩
  · exact ⟨_, _, fun _ => rfl⟩
  · cases hv : rangeIsValid v
    · exact ⟨_, _, fun s => execEncSetRange_invalid v s hv⟩
    · exact ⟨_, _, fun s => execEncSetRange_valid v s hv⟩

/-- Outputs read `LAST_CONC` and `LAST_VALID` and no other register (spec/30_encoding.md R60). -/
theorem resultOf_congr {r r' : Regs} (hc : r.lastConc = r'.lastConc)
    (hv : r.lastValid = r'.lastValid) (k : PacketKind) (st : Status) (f : Option Frame) :
    resultOf r k st f = resultOf r' k st f := by
  simp only [resultOf, hc, hv]

section
variable {s t : State} {rest : List PortInput}

theorem step_of_presentWord {w : OpWord} (hp : s.port = presentWord w :: rest) :
    step s = exec (decode w) { s with port := rest } := by
  simp [step, hp, stepOn, presentWord]

theorem step_of_reset {opw : Option OpWord} (hp : s.port = { rst := true, opw := opw } :: rest) :
    step s = .next (State.channelOpen { s with port := rest }) := by
  simp [step, hp, stepOn, resetStep]

/-- A step with the reset input leaves the reset values (spec/42_control.md R107). -/
theorem regs_of_reset_step {opw : Option OpWord}
    (hp : s.port = { rst := true, opw := opw } :: rest) (h : step s = .next t) :
    t.regs = Regs.reset := by
  cases (step_of_reset hp).symm.trans h
  rfl

/-- A step that runs INIT leaves the reset values (spec/42_control.md R106). -/
theorem regs_of_init_step {w : OpWord} {rsv : Half} (hp : s.port = presentWord w :: rest)
    (hw : decode w = .init rsv) (h : step s = .next t) : t.regs = Regs.reset := by
  rw [step_of_presentWord hp, hw, exec_init] at h
  cases h
  rfl

end

/-! ### Decoded readings -/

/-- The checksum byte of a valid `Reading` frame decodes the staged concentration
(spec/40_parser.md R79, R80). -/
theorem consumeRegs_closesReading {b : Byte} {r : Regs} (hp : r.pos = .checksum)
    (hsum : (r.cksum.toNat + b.toNat) % 256 = 0) (hk : r.kindStg = .reading) :
    consumeRegs b r = ((r.fold b).setReading r.concStg).setPos .sync := by
  have hclose : closesValidFrame b r = true :=
    (closesValidFrame_iff b r).2 ((foldByte_eq_zero_iff _ b).2 hsum)
  rw [consumeRegs_checksum b r hp]
  simp [consumeAtChecksum, hclose, hk]

/-- The next step takes the byte that completes a valid `Reading` frame (spec/10_state.md R20). -/
def State.DecodesReading (s : State) : Prop :=
  ∃ w rest b rsv, s.port = presentWord w :: rest ∧ decode w = .consume b rsv ∧
    s.regs.pos = .checksum ∧ (s.regs.cksum.toNat + b.toNat) % 256 = 0 ∧ s.regs.kindStg = .reading

/-- The next step runs INIT. -/
def State.RunsInit (s : State) : Prop :=
  ∃ w rest rsv, s.port = presentWord w :: rest ∧ decode w = .init rsv

/-- The next step takes the reset input. -/
def State.TakesReset (s : State) : Prop :=
  ∃ opw rest, s.port = { rst := true, opw := opw } :: rest

section
variable {s t : State}

/-- A decoded reading writes `CONC_STG` to `LAST_CONC` and sets `LAST_VALID`. -/
theorem State.DecodesReading.writes (hd : s.DecodesReading) (h : step s = .next t) :
    t.regs.lastConc = s.regs.concStg ∧ t.regs.lastValid = true := by
  obtain ⟨w, rest, b, rsv, hp, hw, hpos, hsum, hk⟩ := hd
  rw [step_of_presentWord hp, hw, exec_consume, consumeRegs_closesReading hpos hsum hk] at h
  cases h
  exact ⟨rfl, rfl⟩

theorem State.RunsInit.regs_eq (hi : s.RunsInit) (h : step s = .next t) : t.regs = Regs.reset := by
  obtain ⟨w, rest, rsv, hp, hw⟩ := hi
  exact regs_of_init_step hp hw h

theorem State.TakesReset.regs_eq (hr : s.TakesReset) (h : step s = .next t) :
    t.regs = Regs.reset := by
  obtain ⟨opw, rest, hp⟩ := hr
  exact regs_of_reset_step hp h

/-- A step keeps `LAST_CONC` and `LAST_VALID` unless it decodes a reading, runs INIT or takes the
reset input (spec/10_state.md R20, R21). -/
theorem step_keeps_reading_or (h : step s = .next t) :
    (t.regs.lastConc = s.regs.lastConc ∧ t.regs.lastValid = s.regs.lastValid) ∨
      s.DecodesReading ∨ s.RunsInit ∨ s.TakesReset := by
  obtain ⟨rest, -, e⟩ | ⟨⟨rst, opw⟩, rest, hp, hr, -⟩ | ⟨⟨rst, opw⟩, w, rest, hp, hr, ho, e⟩ :=
    step_cases s
  · cases e.symm.trans h
    exact .inl ⟨rfl, rfl⟩
  · cases hr
    exact .inr (.inr (.inr ⟨opw, rest, hp⟩))
  · cases hr
    cases ho
    rw [e] at h
    obtain ⟨b, rsv, hw, e'⟩ | ⟨F, -, e'⟩ | ⟨v, -, -, e'⟩ | ⟨rsv, hw, -⟩ | ⟨-, e'⟩ :=
      exec_cases (decode w) { s with port := rest }
    case inl =>
      cases e'.symm.trans h
      obtain hkeep | ⟨hpos, hsum, hk, -⟩ := consumeRegs_reading_cases b s.regs
      · exact .inl hkeep
      · exact .inr (.inl ⟨w, rest, b, rsv, hp, hw, hpos, (foldByte_eq_zero_iff _ b).1 hsum, hk⟩)
    case inr.inr.inr.inl => exact .inr (.inr (.inl ⟨w, rest, rsv, hp, hw⟩))
    all_goals
      cases e'.symm.trans h
      exact .inl ⟨rfl, rfl⟩

/-- The outputs that a step drives are those of the registers it leaves (spec/30_encoding.md R60). -/
theorem step_out_eq_resultOf (h : step s = .next t) {o : Result} (ho : t.out = some o) :
    ∃ k st f, o = resultOf t.regs k st f := by
  obtain ⟨rest, -, e⟩ | ⟨i, rest, -, -, e⟩ | ⟨i, w, rest, -, -, -, e⟩ := step_cases s
  · cases e.symm.trans h
    cases ho
  · cases e.symm.trans h
    cases ho
    exact ⟨_, _, _, rfl⟩
  · obtain ⟨r, k, st, f, e'⟩ := exec_completes (decode w) { s with port := rest }
    cases (e.trans e').symm.trans h
    cases ho
    exact ⟨k, st, f, rfl⟩

end

/-! ### The statements -/

/-- Settles O12: an operation is a function of the registers (`exec_form`), and a codec operation's
part of it is constant (`exec_codec`). -/
theorem onlyRegistersCarry : Obligations.OnlyRegistersCarry := by
  refine ⟨fun i s t hregs => ?_, fun i s t hcodec hc hv => ?_⟩
  · obtain ⟨g, hg⟩ := exec_form i
    exact ⟨_, _, hg s, hg t, by simp [hregs], by simp [hregs], rfl, rfl⟩
  · obtain ⟨st, f, he⟩ := exec_codec hcodec
    exact ⟨_, _, he s, he t, rfl, rfl, congrArg some (resultOf_congr hc hv .incomplete st f)⟩

/-- Settles O45: only three steps write `LAST_CONC` (`step_keeps_reading_or`). -/
theorem lastConcentrationHasOneWriter : Obligations.LastConcentrationHasOneWriter := by
  refine fun s t h => ⟨fun hne => ?_, rfl, fun o ho => ?_⟩
  · obtain ⟨hkeep, -⟩ | hd | hi | hr := step_keeps_reading_or h
    · exact absurd hkeep hne
    · obtain ⟨hconc, -⟩ := hd.writes h
      obtain ⟨w, rest, b, rsv, hp, hw, hpos, hsum, hk⟩ := hd
      exact .inl ⟨w, rest, b, rsv, hp, hw, hpos, hsum, hk, hconc⟩
    · have hregs := hi.regs_eq h
      obtain ⟨w, rest, rsv, hp, hw⟩ := hi
      exact .inr (.inl ⟨w, rest, rsv, hp, hw, by simp [hregs]⟩)
    · have hregs := hr.regs_eq h
      obtain ⟨opw, rest, hp⟩ := hr
      exact .inr (.inr ⟨opw, rest, hp, by simp [hregs]⟩)
  · obtain ⟨k, st, f, rfl⟩ := step_out_eq_resultOf h ho
    rfl

/-- Settles O46: of the three steps that write `LAST_VALID`, a decoded reading sets it, INIT and
reset clear it, and every other step keeps it (`step_keeps_reading_or`). -/
theorem lastValidFollowsReadings : Obligations.LastValidFollowsReadings := by
  refine fun s t h => ⟨?sets, ?init, ?reset, ?rises, ?falls, rfl, ?shown⟩
  case sets =>
    intro w rest b rsv hp hw hpos hsum hk
    exact (State.DecodesReading.writes ⟨w, rest, b, rsv, hp, hw, hpos, hsum, hk⟩ h).symm
  case init =>
    intro w rest rsv hp hw
    simp [regs_of_init_step hp hw h]
  case reset =>
    intro opw rest hp
    simp [regs_of_reset_step hp h]
  case rises =>
    intro ht hs
    obtain ⟨-, hkeep⟩ | hd | hi | hr := step_keeps_reading_or h
    · simp [hkeep, hs] at ht
    · exact hd
    · simp [hi.regs_eq h] at ht
    · simp [hr.regs_eq h] at ht
  case falls =>
    intro ht hs
    obtain ⟨-, hkeep⟩ | hd | hi | hr := step_keeps_reading_or h
    · simp [hkeep, hs] at ht
    · simp [(hd.writes h).2] at ht
    · exact .inl hi
    · exact .inr hr
  case shown =>
    intro o ho
    obtain ⟨k, st, f, rfl⟩ := step_out_eq_resultOf h ho
    rfl

/-- Settles O42: all three ways leave `Regs.reset`. -/
theorem resetRegisterValues : Obligations.ResetRegisterValues := by
  intro r hr
  have hreset : r = Regs.reset := by
    obtain h | ⟨s, t, opw, rest, hp, h, hrt⟩ | ⟨s, t, w, rest, rsv, hp, hw, h, hrt⟩ := hr
    · exact h
    · exact hrt.trans (regs_of_reset_step hp h)
    · exact hrt.trans (regs_of_init_step hp hw h)
  subst hreset
  decide

end Sys2Proof.Machine

/-! PROOFS of the statements about memory and the port (spec/20_memory.md): a run over the port is the
fold of the step, and the bytes of a packed frame. -/

namespace Sys2Proof.Machine

/-! ### The port as a fold of the step -/

/-- The entries that wait behind the one presented do not bear on its step (spec/20_memory.md R44). -/
theorem stepOn_withPort {i : PortInput} {s t : State} (h : stepOn i s = .next t)
    (p : List PortInput) : stepOn i { s with port := p } = .next { t with port := p } := by
  obtain ⟨rst, opw⟩ := i
  cases rst with
  | true =>
    cases h
    rfl
  | false =>
    cases opw with
    | none =>
      cases h
      rfl
    | some w =>
      obtain ⟨g, hg⟩ := exec_form (decode w)
      cases (hg s).symm.trans h
      exact hg { s with port := p }

/-- Presenting inputs one after the other ends where stepping over them ends when they wait before
what the port already holds, and leaves that part of the port as it was (spec/20_memory.md R44). -/
theorem observe_eq_run (inputs : List PortInput) (s : State) :
    ∃ outs t, observe inputs s = .next (outs, t) ∧ t.port = s.port ∧
      Sys2Proof.core.run inputs.length { s with port := inputs ++ s.port } = .next t := by
  induction inputs generalizing s with
  | nil => exact ⟨[], s, rfl, rfl, rfl⟩
  | cons i rest ih =>
    obtain ⟨s', hstep, hport⟩ := step_next (s.present i)
    obtain ⟨outs, t, hobs, hkeep, hrun⟩ := ih s'
    have hhead : step { s with port := i :: (rest ++ s.port) }
        = .next { s' with port := rest ++ s'.port } := by
      rw [hport]
      exact stepOn_withPort hstep (rest ++ s.port)
    exact ⟨_, t, observe_cons hstep hobs, hkeep.trans hport, (core_run_succ hhead _).trans hrun⟩

/-! ### The bytes of a packed frame -/

/-- `v` holds the bytes `bs` with offset 0 in its least significant byte: `bs[k]` at bits
`[8k+7:8k]` (spec/20_memory.md R35). -/
def PacksBytes {n : Nat} (v : BitVec n) (bs : List Byte) : Prop :=
  ∀ k < bs.length, bs[k]? = some (v.extractLsb' (8 * k) 8)

theorem packsBytes_singleton (b : Byte) : PacksBytes b [b] := by
  intro k hk
  obtain rfl : k = 0 := Nat.lt_one_iff.mp hk
  simp

theorem lowByte_append {n : Nat} (v : BitVec n) (b : Byte) : (v ++ b).extractLsb' 0 8 = b := by
  simp [BitVec.extractLsb'_append_eq_of_add_le]

/-- A byte appended below takes offset 0 and moves the others up by one. -/
theorem PacksBytes.append {n : Nat} {v : BitVec n} {bs : List Byte} (h : PacksBytes v bs)
    (b : Byte) : PacksBytes (v ++ b) (b :: bs) := by
  intro k hk
  cases k with
  | zero => exact congrArg some (lowByte_append v b).symm
  | succ k =>
    have hshift : (v ++ b).extractLsb' (8 * (k + 1)) 8 = v.extractLsb' (8 * k) 8 := by
      rw [BitVec.extractLsb'_append_eq_of_le (by omega), Nat.mul_succ, Nat.add_sub_cancel]
    rw [hshift]
    exact h k (Nat.lt_of_succ_lt_succ hk)

theorem Frame.pack_packsBytes (F : Frame) : PacksBytes F.pack F.bytes :=
  (packsBytes_singleton F.checksum).append F.data4 |>.append F.data3 |>.append F.data2
    |>.append F.data1 |>.append F.data0 |>.append F.cmd |>.append F.addr |>.append F.sync

/-- Every frame that an operation drives is one the frame builder makes (spec/41_codec.md R92). -/
theorem exec_drives_built_frame {i : Instr} {s t : State} {o : Result} (h : exec i s = .next t)
    (ho : t.out = some o) (hv : o.frameValid = true) :
    ∃ cmd d0 d1 d2 d3 d4, o.frame = (buildFrame cmd d0 d1 d2 d3 d4).pack := by
  obtain ⟨_, _, -, e⟩ | ⟨F, hF, e⟩ | ⟨_, -, -, e⟩ | ⟨_, -, e⟩ | ⟨-, e⟩ := exec_cases i s
  case inr.inl =>
    cases e.symm.trans h
    cases ho
    obtain rfl | rfl | ⟨r, -, rfl⟩ := hF
    · exact ⟨_, _, _, _, _, _, congrArg Frame.pack requestReadingFrame_eq_build⟩
    · exact ⟨_, _, _, _, _, _, congrArg Frame.pack disableAbcFrame_eq_build⟩
    · exact ⟨_, _, _, _, _, _, rfl⟩
  all_goals
    cases e.symm.trans h
    cases ho
    cases hv

/-! ### The statements -/

/-- Settles O11: the port's inputs wait before an empty rest (`observe_eq_run`). -/
theorem portOrderIsAFold : Obligations.PortOrderIsAFold := by
  intro inputs s hport
  obtain ⟨outs, t, hobs, -, hrun⟩ := observe_eq_run inputs s
  rw [hport, List.append_nil] at hrun
  exact ⟨outs, t, hobs, hrun⟩

/-- Settles O36: a packed frame holds its bytes (`Frame.pack_packsBytes`), and every driven frame is
built with the sync byte (`exec_drives_built_frame`). -/
theorem packedFrameBytes : Obligations.PackedFrameBytes := by
  refine ⟨fun F => F.pack_packsBytes, fun i s t o h ho hv => ?_⟩
  obtain ⟨cmd, d0, d1, d2, d3, d4, hframe⟩ := exec_drives_built_frame h ho hv
  rw [hframe]
  exact lowByte_append _ Config.sync

end Sys2Proof.Machine

/-! PROOFS of the statements about the encoding (spec/30_encoding.md): the assembler's words, the
operand bits an operation ignores, the checksum formula, and what every operation drives. -/

namespace Sys2Proof

/-! ### Words -/

/-- A word is its code shifted above its 16 operand bits (spec/30_encoding.md R58). -/
theorem encode_eq_ofNat (i : Instr) :
    encode i = BitVec.ofNat 19 ((opcode i).toNat <<< 16 ||| (operandBits i).toNat) :=
  BitVec.eq_of_toNat_eq <| by
    rw [BitVec.toNat_ofNat, ← BitVec.toNat_append]
    exact (Nat.mod_eq_of_lt (encode i).isLt).symm

theorem operandBits_consume_zero_toNat (b : Byte) :
    (operandBits (.consume b 0)).toNat = b.toNat := by
  simp [operandBits, bytes_toNat]

theorem opField_eq_iff (w : OpWord) (op : BitVec 3) :
    opField w = op ↔ w.toNat / 65536 = op.toNat := by
  rw [← opField_toNat, BitVec.toNat_inj]

/-- A mask that keeps the whole code keeps the operation. -/
theorem opField_and_of_mask {m : OpWord} (hm : opField m = BitVec.allOnes 3) (w : OpWord) :
    opField (w &&& m) = opField w := by
  unfold opField at hm ⊢
  rw [BitVec.extractLsb'_and, hm, BitVec.and_allOnes]

theorem byteField_and_of_mask {m : OpWord} (hm : byteField m = BitVec.allOnes 8) (w : OpWord) :
    byteField (w &&& m) = byteField w := by
  unfold byteField at hm ⊢
  rw [BitVec.extractLsb'_and, hm, BitVec.and_allOnes]

end Sys2Proof

namespace Sys2Proof.Machine

/-! ### Ignored operand bits -/

/-- The meaning of a word reads its code, the byte of CONSUME and the range of ENC_SET_RANGE, and no
other bit (spec/30_encoding.md R61, R63). -/
theorem exec_decode_congr {w v : OpWord} (hop : opField v = opField w)
    (hbyte : opField w = 0 → byteField v = byteField w)
    (hrange : opField w = 3 → argField v = argField w) (s : State) :
    exec (decode v) s = exec (decode w) s := by
  unfold decode
  rw [hop]
  split_ifs with h0 _ _ h3
  · rw [hbyte h0]
    rfl
  · rfl
  · rfl
  · rw [hrange h3]
  all_goals rfl

/-- Clearing operand bits does not change the step, if the mask keeps the code and, for a CONSUME, its
byte; ENC_SET_RANGE ignores no bit. -/
theorem step_presentWord_and {w m : OpWord} (hm : opField m = BitVec.allOnes 3)
    (hbyte : opField w = 0 → byteField m = BitVec.allOnes 8) (hrange : opField w ≠ 3) (s : State) :
    step (s.present (presentWord w)) = step (s.present (presentWord (w &&& m))) :=
  (exec_decode_congr (opField_and_of_mask hm w) (fun h0 => byteField_and_of_mask (hbyte h0) w)
    (fun h3 => absurd h3 hrange) s).symm

/-- An operation other than CONSUME and ENC_SET_RANGE ignores all its operand bits. -/
theorem step_presentWord_clear_operand {w : OpWord} {op : BitVec 3}
    (hop : w.toNat / 65536 = op.toNat) (h0 : op ≠ 0) (h3 : op ≠ 3) (s : State) :
    step (s.present (presentWord w)) = step (s.present (presentWord (w &&& 0x70000))) := by
  obtain rfl : opField w = op := (opField_eq_iff w op).2 hop
  exact step_presentWord_and (by decide) (fun h => absurd h h0) h3 s

/-! ### The checksum, the ranges and the fixed frames as numbers -/

theorem bodySum_toNat_eq_sumBody (F : Frame) : F.bodySum.toNat = F.sumBody % 256 := bodySum_toNat F

theorem rangeIsValid_iff_toNat (r : Half) :
    rangeIsValid r = true ↔ r.toNat = 2000 ∨ r.toNat = 5000 ∨ r.toNat = 10000 := by
  rw [rangeIsValid_iff]
  simp only [← BitVec.toNat_inj, BitVec.reduceToNat]

theorem highByte_eq_ofNat (r : Half) : highByte r = BitVec.ofNat 8 (r.toNat / 256) := by
  rw [highByte, BitVec.extractLsb', Nat.shiftRight_eq_div_pow]

theorem lowByte_eq_ofNat (r : Half) : lowByte r = BitVec.ofNat 8 (r.toNat % 256) :=
  BitVec.eq_of_toNat_eq <| by simp [lowByte]

/-- The set-range frame is built from the two halves of the range (spec/41_codec.md R99). -/
theorem setRangeFrame_eq_build (r : Half) :
    setRangeFrame r = buildFrame 0x99 (BitVec.ofNat 8 (r.toNat / 256))
      (BitVec.ofNat 8 (r.toNat % 256)) 0 0 0 := by
  rw [setRangeFrame, highByte_eq_ofNat, lowByte_eq_ofNat]
  rfl

theorem requestReadingFrame_pack : requestReadingFrame.pack = 0x7900000000008601FF := by decide

theorem disableAbcFrame_pack : disableAbcFrame.pack = 0x8600000000007901FF := by decide

/-! ### The kind that CONSUME reports -/

theorem closesValidFrame_iff_sum (b : Byte) (r : Regs) :
    closesValidFrame b r = true ↔ (r.cksum.toNat + b.toNat) % 256 = 0 :=
  (closesValidFrame_iff b r).trans (foldByte_eq_zero_iff _ b)

/-- CONSUME reports the staged kind on the byte that closes a valid frame and `Incomplete` on every
other byte (spec/40_parser.md R80 to R82). -/
theorem consumeKind_eq_ite (b : Byte) (r : Regs) :
    consumeKind b r =
      if r.pos = .checksum ∧ (r.cksum.toNat + b.toNat) % 256 = 0 then r.kindStg else .incomplete := by
  simp only [consumeKind, closesValidFrame_iff_sum]

/-! ### Results -/

/-- Every operation drives its outputs; they show the registers it leaves, and `OUT.frame` is zero
without a frame (spec/30_encoding.md R60). -/
theorem exec_drives_outputs (i : Instr) (s : State) : ∃ t o, exec i s = .next t ∧ t.out = some o ∧
    o.conc = t.regs.lastConc ∧ o.concValid = t.regs.lastValid ∧
    (o.frameValid = false → o.frame = 0) := by
  obtain ⟨r, k, st, f, h⟩ := exec_completes i s
  refine ⟨_, _, h, rfl, rfl, rfl, fun hnone => ?_⟩
  cases f with
  | none => rfl
  | some F => cases hnone

/-! ### The statements -/

/-- Settles O6: the masks clear only bits that the meaning does not read (`step_presentWord_and`). -/
theorem reservedOperandBitsIgnored : Obligations.ReservedOperandBitsIgnored := by
  intro w s
  refine ⟨fun h => ?consume, fun h => ?encRead, fun h => ?encAbcOff, fun h => ?init⟩
  case consume =>
    have hop : opField w = 0 := (opField_eq_iff w 0).2 h
    exact step_presentWord_and (by decide) (fun _ => by decide) (by simp [hop]) s
  case encRead => exact step_presentWord_clear_operand (op := 1) h (by decide) (by decide) s
  case encAbcOff => exact step_presentWord_clear_operand (op := 2) h (by decide) (by decide) s
  case init => exact step_presentWord_clear_operand (op := 4) h (by decide) (by decide) s

/-- Settles O48: `exec_drives_outputs` gives what all operations share; the kind, status and frame are
those of each operation's own equation. -/
theorem everyOperationDrivesItsOutputs : Obligations.EveryOperationDrivesItsOutputs := by
  intro i s
  obtain ⟨t, o, h, ho, hconc, hvalid, hframe⟩ := exec_drives_outputs i s
  refine ⟨t, o, h, ho, hconc, hvalid, hframe,
    ?consume, ?encRead, ?encAbcOff, ?encSetRange, ?init, ?reserved⟩
  case consume =>
    rintro b rsv rfl
    cases h
    cases ho
    refine ⟨fun hpos hsum => ?_, fun hopen => ?_, rfl, rfl⟩
    · rw [resultOf_kind, consumeKind_eq_ite, if_pos ⟨hpos, hsum⟩]
    · rw [resultOf_kind, consumeKind_eq_ite, if_neg hopen]
      rfl
  case encRead =>
    rintro rsv rfl
    cases h
    cases ho
    exact ⟨rfl, rfl, rfl, requestReadingFrame_pack⟩
  case encAbcOff =>
    rintro rsv rfl
    cases h
    cases ho
    exact ⟨rfl, rfl, rfl, disableAbcFrame_pack⟩
  case encSetRange =>
    rintro v rfl
    cases hv : rangeIsValid v with
    | true =>
      have hrange := (rangeIsValid_iff_toNat v).1 hv
      cases (execEncSetRange_valid v s hv).symm.trans h
      cases ho
      refine ⟨rfl, fun _ => ⟨rfl, rfl, congrArg Frame.pack (setRangeFrame_eq_build v)⟩, ?_⟩
      intro h2 h5 h10
      omega
    | false =>
      cases (execEncSetRange_invalid v s hv).symm.trans h
      cases ho
      refine ⟨rfl, fun hrange => ?_, fun _ _ _ => ⟨rfl, rfl⟩⟩
      simp [(rangeIsValid_iff_toNat v).2 hrange] at hv
  case init =>
    rintro rsv rfl
    cases h
    cases ho
    exact ⟨rfl, rfl, rfl⟩
  case reserved =>
    rintro a (rfl | rfl | rfl) <;> cases h <;> cases ho <;> exact ⟨rfl, rfl, rfl⟩

/-- Settles O2: a word is its code above its operand bits (`encode_eq_ofNat`). -/
theorem assemblerSyntaxWords : Obligations.AssemblerSyntaxWords := by
  refine ⟨fun b => ?_, by decide, by decide, fun n => encode_eq_ofNat _, by decide, by decide,
    by decide, by decide, by decide, by decide⟩
  rw [encode_eq_ofNat, operandBits_consume_zero_toNat]
  rfl

/-- Settles O33: `ck` is `256 - s` modulo 256 (`ck_toNat`) for the body sum `s`, which does not read
the sync byte. -/
theorem checksumFormula : Obligations.ChecksumFormula := by
  intro F y
  have hck : F.ck.toNat = (256 - F.sumBody % 256) % 256 := by
    rw [ck_toNat, bodySum_toNat_eq_sumBody]
  refine ⟨by omega, hck, fun h0 => ?_, fun hne => by omega, rfl⟩
  refine BitVec.eq_of_toNat_eq ?_
  rw [hck, h0]
  rfl

end Sys2Proof.Machine

/-! PROOFS of the statements about the parser (spec/40_parser.md): what CONSUME does at each position,
and the checksum along a run of CONSUMEs. -/

namespace Sys2Proof

theorem byteField_encode_consume (b rsv : Byte) : byteField (encode (.consume b rsv)) = b := by
  apply BitVec.eq_of_toNat_eq
  have hb := b.isLt
  rw [byteField_toNat, encode_toNat, operandBits, bytes_toNat]
  omega

theorem highByteField_encode_consume (b rsv : Byte) :
    highByteField (encode (.consume b rsv)) = rsv := by
  apply BitVec.eq_of_toNat_eq
  have hb := b.isLt
  have hrsv := rsv.isLt
  rw [highByteField_toNat, encode_toNat, operandBits, bytes_toNat]
  omega

theorem decode_encode_consume (b rsv : Byte) : decode (encode (.consume b rsv)) = .consume b rsv := by
  have hop : opField (encode (.consume b rsv)) = 0 := opField_encode _
  rw [decode, if_pos hop, byteField_encode_consume, highByteField_encode_consume]

end Sys2Proof

namespace Sys2Proof.Machine

/-! ### One CONSUME -/

/-- CONSUME with its outputs written out, where it leaves `LAST_CONC` and `LAST_VALID` alone: they
still show the registers from before (spec/40_parser.md R71). -/
theorem exec_consume_of_keeps_reading {b rsv : Byte} {s : State} {r : Regs} {k : PacketKind}
    (hr : consumeRegs b s.regs = r) (hk : consumeKind b s.regs = k)
    (hconc : r.lastConc = s.regs.lastConc) (hvalid : r.lastValid = s.regs.lastValid) :
    exec (.consume b rsv) s =
      .next { s with regs := r, out := some (consumeResult s.regs k) } := by
  subst hr hk
  rw [exec_consume, State.complete, resultOf_congr hconc hvalid]
  rfl

section
variable {b : Byte} {r : Regs}

/-- Before the checksum position CONSUME keeps `LAST_CONC` and `LAST_VALID` (spec/10_state.md R20). -/
theorem consumeRegs_keeps_reading (hpos : r.pos ≠ .checksum) :
    (consumeRegs b r).lastConc = r.lastConc ∧ (consumeRegs b r).lastValid = r.lastValid := by
  obtain hkeep | ⟨hp, -⟩ := consumeRegs_reading_cases b r
  · exact hkeep
  · exact absurd hp hpos

/-- Before the checksum position CONSUME reports `Incomplete` and shows the last known concentration
of before, whatever it writes to the other registers (spec/40_parser.md R82). -/
theorem exec_consume_before_checksum {rsv : Byte} {s : State} (hpos : s.regs.pos ≠ .checksum)
    (hr : consumeRegs b s.regs = r) :
    exec (.consume b rsv) s =
      .next { s with regs := r, out := some (consumeResult s.regs .incomplete) } := by
  obtain ⟨hconc, hvalid⟩ := consumeRegs_keeps_reading (b := b) hpos
  exact exec_consume_of_keeps_reading hr (consumeKind_incomplete b _ hpos)
    (hr ▸ hconc) (hr ▸ hvalid)

theorem consumeRegs_sync_of_ne (hpos : r.pos = .sync) (hb : b ≠ 0xFF) : consumeRegs b r = r := by
  rw [consumeRegs_sync b r hpos, consumeAtSync, Config.sync, if_neg hb, ← hpos]
  rfl

theorem consumeRegs_sync_of_eq (hpos : r.pos = .sync) (hb : b = 0xFF) :
    consumeRegs b r = (r.setCksum 0x00).setPos .address := by
  rw [consumeRegs_sync b r hpos, consumeAtSync, Config.sync, if_pos hb]

/-- The byte that starts a frame (spec/40_parser.md R72). -/
theorem exec_consume_syncByte (rsv : Byte) {s : State} (hpos : s.regs.pos = .sync) :
    exec (.consume 0xFF rsv) s =
      .next (s.complete ((s.regs.setCksum 0x00).setPos .address) .incomplete .ok none) := by
  rw [exec_consume, consumeRegs_sync_of_eq hpos rfl, consumeKind_incomplete _ _ (by simp [hpos])]

theorem consumeRegs_data1_of_reading (hpos : r.pos = .data1) (hk : r.kindStg = .reading) :
    consumeRegs b r = ((r.fold b).setConcStg (concentration r.data0 b)).setPos .data2 := by
  rw [consumeRegs_data1 b r hpos, consumeAtData1, if_pos hk]

theorem consumeRegs_data1_of_ne_reading (hpos : r.pos = .data1) (hk : r.kindStg ≠ .reading) :
    consumeRegs b r = (r.fold b).setPos .data2 := by
  rw [consumeRegs_data1 b r hpos, consumeAtData1, if_neg hk]

/-- A checksum byte that decodes no reading, of a corrupt frame or of one of another kind, is folded
and the parser returns to Sync (spec/40_parser.md R80, R81). -/
theorem consumeRegs_checksum_of_not_reading (hpos : r.pos = .checksum)
    (h : ¬ (r.cksum + b = 0 ∧ r.kindStg = .reading)) :
    consumeRegs b r = (r.fold b).setPos .sync := by
  rw [consumeRegs_checksum b r hpos, consumeAtChecksum, if_neg]
  exact fun ⟨hclose, hk⟩ => h ⟨(closesValidFrame_iff b r).1 hclose, hk⟩

theorem consumeKind_of_closes (hpos : r.pos = .checksum) (hsum : r.cksum + b = 0) :
    consumeKind b r = r.kindStg :=
  if_pos ⟨hpos, (closesValidFrame_iff b r).2 hsum⟩

theorem consumeKind_of_not_closes (hsum : r.cksum + b ≠ 0) : consumeKind b r = .incomplete :=
  if_neg fun ⟨_, hclose⟩ => hsum ((closesValidFrame_iff b r).1 hclose)

/-- From position 1 on the byte is folded, whatever else it does (spec/40_parser.md R74). -/
theorem consumeRegs_cksum (hpos : r.pos ≠ .sync) :
    (consumeRegs b r).cksum = foldByte r.cksum b := by
  cases hp : r.pos with
  | sync => exact absurd hp hpos
  | address => rw [consumeRegs_address b r hp]; rfl
  | command => rw [consumeRegs_command b r hp]; rfl
  | data0 => rw [consumeRegs_data0 b r hp]; rfl
  | data1 => rw [consumeRegs_data1 b r hp, consumeAtData1]; split_ifs <;> rfl
  | data2 => rw [consumeRegs_padding b r (.inl hp)]; rfl
  | data3 => rw [consumeRegs_padding b r (.inr (.inl hp))]; rfl
  | data4 => rw [consumeRegs_padding b r (.inr (.inr hp))]; rfl
  | checksum => rw [consumeRegs_checksum b r hp, consumeAtChecksum]; split_ifs <;> rfl

end

/-! ### CONSUME along a run -/

/-- A run that feeds `b` first is the CONSUME of `b`, then the run that feeds the rest
(spec/30_encoding.md R69). -/
theorem observe_feed_cons {b : Byte} {bs : List Byte} {s s' t : State} {outs : List (Option Result)}
    (h : exec (.consume b 0) s = .next s') (h' : observe (feed bs) s' = .next (outs, t)) :
    observe (feed (b :: bs)) s = .next (s'.out :: outs, t) := by
  refine observe_cons ?_ h'
  rw [step_of_presentWord (State.present_port s _), decode_encode_consume]
  exact h

/-- How many bytes of the frame are still to come, the one expected next included; none at Sync,
where no frame has begun (spec/10_state.md R14). -/
def FramePos.bytesLeft (p : FramePos) : Nat := if p = .sync then 0 else 9 - p.index

@[simp] theorem FramePos.bytesLeft_sync : FramePos.bytesLeft .sync = 0 := rfl
@[simp] theorem FramePos.bytesLeft_address : FramePos.bytesLeft .address = 8 := rfl

theorem FramePos.bytesLeft_advance {p : FramePos} (hp : p ≠ .sync) :
    p.bytesLeft = p.advance.bytesLeft + 1 := by
  cases p with
  | sync => exact absurd rfl hp
  | _ => rfl

/-- Bytes that do not run past the frame are all added to `CKSUM` (spec/40_parser.md R74). -/
theorem observe_feed_cksum (bs : List Byte) (s : State) (hlen : bs.length ≤ s.regs.pos.bytesLeft) :
    ∃ outs t, observe (feed bs) s = .next (outs, t) ∧
      t.regs.cksum.toNat = (s.regs.cksum.toNat + (bs.map BitVec.toNat).sum) % 256 := by
  induction bs generalizing s with
  | nil =>
    exact ⟨[], s, rfl, (Nat.mod_eq_of_lt s.regs.cksum.isLt).symm⟩
  | cons b bs ih =>
    have hpos : s.regs.pos ≠ .sync := by
      intro hsync
      simp [hsync] at hlen
    have hadvance : (consumeRegs b s.regs).pos = s.regs.pos.advance := by
      rw [consumeRegs_pos, if_neg hpos]
    have hrest : bs.length ≤ (consumeRegs b s.regs).pos.bytesLeft := by
      rw [FramePos.bytesLeft_advance hpos, List.length_cons] at hlen
      rw [hadvance]
      omega
    obtain ⟨outs, t, hrun, hsum⟩ := ih
      (s.complete (consumeRegs b s.regs) (consumeKind b s.regs) .ok none) hrest
    refine ⟨_, t, observe_feed_cons (exec_consume b 0 s) hrun, ?_⟩
    rw [hsum, State.complete_regs, consumeRegs_cksum hpos, foldByte_toNat, Nat.mod_add_mod,
      List.map_cons, List.sum_cons, Nat.add_assoc]

end Sys2Proof.Machine

/-! ### The statements, apart from the model's functions whose names some of them share -/

namespace Sys2Proof.Machine.Parser

/-- Settles O23: one CONSUME folds its byte (`consumeRegs_cksum`); the sync byte clears `CKSUM` and
leaves eight bytes to come, over which the folds add up (`observe_feed_cksum`). -/
theorem checksumAccumulates : Obligations.ChecksumAccumulates := by
  refine ⟨fun b rsv s hpos => ⟨_, exec_consume b rsv s, ?_⟩, fun bs s hpos _ hlen => ?_⟩
  · rw [State.complete_regs, consumeRegs_cksum hpos, foldByte_toNat]
  · obtain ⟨outs, t, hrun, hsum⟩ := observe_feed_cksum bs
      (s.complete ((s.regs.setCksum 0x00).setPos .address) .incomplete .ok none)
      (by simpa using hlen)
    exact ⟨_, t, observe_feed_cons (exec_consume_syncByte 0 hpos) hrun, by simpa using hsum⟩

/-- Settles O13: at Sync only 0xFF writes registers (`consumeRegs_sync_of_ne`,
`consumeRegs_sync_of_eq`). -/
theorem consumeAtSync : Obligations.ConsumeAtSync := by
  intro b rsv s hpos
  have hbefore : s.regs.pos ≠ .checksum := by simp [hpos]
  exact ⟨fun hb => exec_consume_before_checksum hbefore (consumeRegs_sync_of_ne hpos hb),
    fun hb => exec_consume_before_checksum hbefore (consumeRegs_sync_of_eq hpos hb)⟩

/-- Settles O14: the address byte is folded whatever it is (`consumeRegs_address`). -/
theorem consumeAtAddress : Obligations.ConsumeAtAddress := fun b _ s hpos =>
  exec_consume_before_checksum (by simp [hpos]) (consumeRegs_address b s.regs hpos)

/-- Settles O15: the staged kind is `classify`'s (`consumeRegs_command`). -/
theorem consumeAtCommand : Obligations.ConsumeAtCommand := fun b _ s hpos =>
  exec_consume_before_checksum (by simp [hpos]) (consumeRegs_command b s.regs hpos)

/-- Settles O16: data byte 0 is stored whatever the staged kind (`consumeRegs_data0`). -/
theorem consumeAtDataZero : Obligations.ConsumeAtDataZero := fun b _ s hpos =>
  exec_consume_before_checksum (by simp [hpos]) (consumeRegs_data0 b s.regs hpos)

/-- Settles O17: the staged value is `concentration`, which does not overflow
(`concentration_toNat`). -/
theorem consumeAtDataOne : Obligations.ConsumeAtDataOne := by
  intro b rsv s hpos
  have hbefore : s.regs.pos ≠ .checksum := by simp [hpos]
  refine ⟨fun hk => ⟨concentration s.regs.data0 b, concentration_toNat _ b, ?_⟩, fun hk => ?_⟩
  · exact exec_consume_before_checksum hbefore (consumeRegs_data1_of_reading hpos hk)
  · exact exec_consume_before_checksum hbefore (consumeRegs_data1_of_ne_reading hpos hk)

/-- Settles O18: padding is folded and `POS` advances (`consumeRegs_padding`). -/
theorem consumeAtPadding : Obligations.ConsumeAtPadding := by
  intro b rsv s next h
  have hpadding : s.regs.pos = .data2 ∨ s.regs.pos = .data3 ∨ s.regs.pos = .data4 :=
    h.imp And.left (Or.imp And.left And.left)
  have hnext : s.regs.pos.advance = next := by
    obtain ⟨hp, rfl⟩ | ⟨hp, rfl⟩ | ⟨hp, rfl⟩ := h <;> rw [hp] <;> rfl
  have hbefore : s.regs.pos ≠ .checksum := by
    obtain hp | hp | hp := hpadding <;> simp [hp]
  subst hnext
  exact exec_consume_before_checksum hbefore (consumeRegs_padding b s.regs hpadding)

/-- Settles O19: a valid `Reading` writes the staged concentration (`consumeRegs_closesReading`), a
valid frame of another kind only returns to Sync (`consumeRegs_checksum_of_not_reading`), and the
invariant's first clause rules out a staged `Incomplete`. -/
theorem consumeClosesValidFrame : Obligations.ConsumeClosesValidFrame := by
  intro b rsv s hpos hsum
  have hkind := consumeKind_of_closes hpos hsum
  refine ⟨fun hk => ?reading, fun hk => ?other, fun ⟨hstaged, _⟩ => ?kinds⟩
  case reading =>
    rw [exec_consume, hkind, hk,
      consumeRegs_closesReading hpos ((foldByte_eq_zero_iff _ b).1 hsum) hk, ← hsum]
    rfl
  case other =>
    have hregs := consumeRegs_checksum_of_not_reading hpos (b := b) fun ⟨_, hread⟩ => hk hread
    rw [← hsum]
    exact exec_consume_of_keeps_reading hregs hkind rfl rfl
  case kinds =>
    have hne : s.regs.kindStg ≠ .incomplete := hstaged (by simp [hpos, FramePos.index])
    cases hk : s.regs.kindStg with
    | incomplete => exact absurd hk hne
    | reading => exact .inl rfl
    | abcOff => exact .inr (.inl rfl)
    | setRange => exact .inr (.inr (.inl rfl))
    | unrecognized => exact .inr (.inr (.inr rfl))

/-- Settles O20: a corrupt frame decodes no reading (`consumeRegs_checksum_of_not_reading`) and
reports no kind (`consumeKind_of_not_closes`). -/
theorem consumeDiscardsCorruptFrame : Obligations.ConsumeDiscardsCorruptFrame := by
  intro b rsv s hpos hsum
  exact exec_consume_of_keeps_reading
    (consumeRegs_checksum_of_not_reading hpos fun ⟨hzero, _⟩ => hsum hzero)
    (consumeKind_of_not_closes hsum) rfl rfl

/-- Settles O21: the kind is `Incomplete` before the checksum position (`consumeKind_incomplete`). -/
theorem consumeOutputs : Obligations.ConsumeOutputs := by
  intro b rsv s
  refine ⟨_, _, exec_consume b rsv s, rfl, fun hindex => ?_, rfl, rfl, rfl⟩
  refine consumeKind_incomplete b s.regs fun hpos => ?_
  simp [hpos, FramePos.index] at hindex

end Sys2Proof.Machine.Parser

/-! PROOFS of the statements about the frame codec (spec/41_codec.md): the words of the codec
operations, the bytes and the checksum of the frames they drive, and the parser's answer to a frame. -/

namespace Sys2Proof

/-! ### The words of the codec operations -/

section
variable {w : OpWord}

theorem decode_eq_encRead (h : w.toNat / 65536 = 1) : decode w = .encRead (argField w) := by
  have hop : opField w = 1 := (opField_eq_iff w 1).2 h
  simp [decode, hop]

theorem decode_eq_encAbcOff (h : w.toNat / 65536 = 2) : decode w = .encAbcOff (argField w) := by
  have hop : opField w = 2 := (opField_eq_iff w 2).2 h
  simp [decode, hop]

theorem decode_eq_encSetRange (h : w.toNat / 65536 = 3) : decode w = .encSetRange (argField w) := by
  have hop : opField w = 3 := (opField_eq_iff w 3).2 h
  simp [decode, hop]

end

theorem argField_eq_ofNat (w : OpWord) : argField w = BitVec.ofNat 16 (w.toNat % 65536) :=
  BitVec.eq_of_toNat_eq <| by simp [argField_toNat]

end Sys2Proof

namespace Sys2Proof.Machine

/-! ### The checksum of a frame -/

/-- Offsets 1 to 8 sum to 0 modulo 256 exactly when the checksum byte brings the body's sum to zero. -/
theorem Frame.sumChecked_mod_eq_zero_iff (F : Frame) :
    F.sumChecked % 256 = 0 ↔ F.bodySum + F.checksum = 0 := by
  have hsum : F.sumChecked = F.sumBody + F.checksum.toNat := rfl
  have hfold := foldByte_eq_zero_iff F.bodySum F.checksum
  rw [bodySum_toNat_eq_sumBody, Nat.mod_add_mod, ← hsum] at hfold
  exact hfold.symm

theorem Frame.bodySum_add_ck (F : Frame) : F.bodySum + F.ck = 0 := by
  refine (foldByte_eq_zero_iff _ _).2 ?_
  have := F.bodySum.isLt
  rw [ck_toNat]
  omega

/-- The builder's checksum makes its frame valid (spec/41_codec.md R92). -/
theorem buildFrame_sumChecked (cmd d0 d1 d2 d3 d4 : Byte) :
    (buildFrame cmd d0 d1 d2 d3 d4).sumChecked % 256 = 0 :=
  (Frame.sumChecked_mod_eq_zero_iff _).2 (buildFrame cmd d0 d1 d2 d3 d4).bodySum_add_ck

/-! ### The bytes of a driven frame -/

/-- Packing loses no byte: the packed bytes in offset order are the frame's (spec/20_memory.md R35). -/
theorem packedBytes_pack (F : Frame) : (List.range 9).map (packedByte F.pack) = F.bytes := by
  refine List.ext_getElem? fun k => ?_
  obtain hk | hk := Nat.lt_or_ge k 9
  · rw [F.pack_packsBytes k hk, List.getElem?_map, List.getElem?_range hk]
    rfl
  · have hlen : F.bytes.length ≤ k := hk
    rw [List.getElem?_eq_none hlen, List.getElem?_eq_none (by simpa using hk)]

theorem packedBytes_pack_sum (F : Frame) :
    ((List.range 8).map fun k => (packedByte F.pack (k + 1)).toNat).sum = F.sumChecked := by
  have htail : (List.range 8).map (fun k => packedByte F.pack (k + 1)) = F.bytes.tail :=
    congrArg List.tail (packedBytes_pack F)
  have hmap := congrArg (fun bs => (bs.map BitVec.toNat).sum) htail
  simpa [Frame.bytes, Frame.sumChecked, Function.comp_def, Nat.add_assoc] using hmap

section
variable {F : Frame} {v : PackedFrame}

/-- The state after a codec operation that drives the frame packed as `v`, written out. -/
theorem complete_driving_frame (s : State) (hv : F.pack = v) :
    s.complete s.regs .incomplete .ok (some F) =
      { s with out := some { kind := .incomplete, conc := s.regs.lastConc,
                             concValid := s.regs.lastValid, status := .ok, frameValid := true,
                             frame := v } } := by
  subst hv
  rfl

theorem exec_encSetRange_of_valid {r : Half} (s : State) (hr : rangeIsValid r = true)
    (hv : (setRangeFrame r).pack = v) :
    exec (.encSetRange r) s =
      .next { s with out := some { kind := .incomplete, conc := s.regs.lastConc,
                                   concValid := s.regs.lastValid, status := .ok,
                                   frameValid := true, frame := v } } :=
  (execEncSetRange_valid r s hr).trans (congrArg Host.Outcome.next (complete_driving_frame s hv))

end

/-! ### A frame fed from Sync -/

/-- The registers after CONSUMEs of the bytes `bs`. -/
def consumeAll (bs : List Byte) (r : Regs) : Regs := bs.foldl (fun r b => consumeRegs b r) r

theorem consumeAll_cons (b : Byte) (bs : List Byte) (r : Regs) :
    consumeAll (b :: bs) r = consumeAll bs (consumeRegs b r) := rfl

/-- Bytes that stop short of the checksum position report `Incomplete` and show the last known
concentration of before (spec/40_parser.md R82). -/
theorem observe_feed_before_checksum (bs : List Byte) (s : State)
    (hlen : bs.length < s.regs.pos.bytesLeft) :
    ∃ t, observe (feed bs) s =
        .next (List.replicate bs.length (some (consumeResult s.regs .incomplete)), t) ∧
      t.regs = consumeAll bs s.regs ∧ t.port = s.port := by
  induction bs generalizing s with
  | nil => exact ⟨s, rfl, rfl, rfl⟩
  | cons b bs ih =>
    have hsync : s.regs.pos ≠ .sync := fun h => by simp [h] at hlen
    have hchecksum : s.regs.pos ≠ .checksum := fun h => by
      simp [h, FramePos.bytesLeft, FramePos.index] at hlen
    have hrest : bs.length < (consumeRegs b s.regs).pos.bytesLeft := by
      rw [consumeRegs_pos, if_neg hsync]
      rw [FramePos.bytesLeft_advance hsync, List.length_cons] at hlen
      omega
    obtain ⟨t, hrun, hregs, hport⟩ := ih
      { s with regs := consumeRegs b s.regs, out := some (consumeResult s.regs .incomplete) } hrest
    obtain ⟨hconc, hvalid⟩ := consumeRegs_keeps_reading (b := b) hchecksum
    have hshown : consumeResult (consumeRegs b s.regs) .incomplete =
        consumeResult s.regs .incomplete := by
      simp only [consumeResult, hconc, hvalid]
    rw [hshown] at hrun
    exact ⟨t, observe_feed_cons (exec_consume_before_checksum hchecksum rfl) hrun, hregs, hport⟩

/-- The bytes of a frame between its sync byte and its checksum byte, offsets 1 to 7. -/
def Frame.headBytes (F : Frame) : List Byte :=
  [F.addr, F.cmd, F.data0, F.data1, F.data2, F.data3, F.data4]

/-- The registers before the checksum byte of a frame that began at Sync: the sum, the kind and the
concentration are staged, the last known concentration is held (spec/40_parser.md R72 to R78). -/
def Frame.stagedRegs (F : Frame) (r : Regs) : Regs :=
  { r with
    pos := .checksum
    cksum := F.bodySum
    kindStg := classify F.cmd
    data0 := F.data0
    concStg := if classify F.cmd = .reading then concentration F.data0 F.data1 else r.concStg }

/-- Data byte 1 in one equation: only `CONC_STG` depends on the staged kind (spec/40_parser.md R77). -/
theorem consumeRegs_data1_eq {b : Byte} {r : Regs} (hpos : r.pos = .data1) :
    consumeRegs b r = ((r.fold b).setConcStg
      (if r.kindStg = .reading then concentration r.data0 b else r.concStg)).setPos .data2 := by
  by_cases hk : r.kindStg = .reading
  · rw [consumeRegs_data1_of_reading hpos hk, if_pos hk]
  · rw [consumeRegs_data1_of_ne_reading hpos hk, if_neg hk]
    rfl

theorem consumeAll_headBytes (F : Frame) (r : Regs) :
    consumeAll F.headBytes ((r.setCksum 0x00).setPos .address) = F.stagedRegs r := by
  have hdata1 := consumeRegs_data1_eq (b := F.data1)
    (r := consumeAll [F.addr, F.cmd, F.data0] ((r.setCksum 0x00).setPos .address)) rfl
  have hsum : F.bodySum = foldByte 0x00 F.addr + F.cmd + F.data0 + F.data1 + F.data2 + F.data3
      + F.data4 := by
    simp [foldByte, Frame.bodySum]
  refine (congrArg (consumeAll [F.data2, F.data3, F.data4]) hdata1).trans ?_
  rw [Frame.stagedRegs, hsum]
  rfl

/-- Nine bytes from Sync that start with 0xFF are one frame: eight `Incomplete`, then what the checksum
byte does to the staged registers (spec/40_parser.md R84). -/
theorem observe_feedFrame {F : Frame} {s : State} (hpos : s.regs.pos = .sync)
    (hF : F.sync = 0xFF) :
    ∃ t : State, t.regs = F.stagedRegs s.regs ∧ t.port = s.port ∧
      observe (feedFrame F) s =
        .next (List.replicate 8 (some (consumeResult s.regs .incomplete)) ++
            [some (resultOf (consumeRegs F.checksum t.regs) (consumeKind F.checksum t.regs) .ok none)],
          t.complete (consumeRegs F.checksum t.regs) (consumeKind F.checksum t.regs) .ok none) := by
  obtain ⟨t, hrun, hregs, hport⟩ := observe_feed_before_checksum F.headBytes
    (s.complete ((s.regs.setCksum 0x00).setPos .address) .incomplete .ok none) (by simp [Frame.headBytes])
  refine ⟨t, hregs.trans (consumeAll_headBytes F s.regs), hport, ?_⟩
  have hbytes : feedFrame F = feed (0xFF :: F.headBytes) ++ feed [F.checksum] := by
    rw [← hF]
    rfl
  rw [hbytes]
  exact observe_append (observe_feed_cons (exec_consume_syncByte 0 hpos) hrun)
    (observe_feed_cons (exec_consume F.checksum 0 t) rfl)

/-- A checksum-valid frame fed from Sync reports the kind of its command byte; a `Reading` also decodes
its concentration (spec/40_parser.md R80). -/
theorem observe_feedFrame_of_valid {F : Frame} {s : State} (hpos : s.regs.pos = .sync)
    (hF : F.sync = 0xFF) (hvalid : F.sumChecked % 256 = 0) :
    ∃ outs o t, observe (feedFrame F) s = .next (outs ++ [some o], t) ∧ o.kind = classify F.cmd ∧
      (classify F.cmd = .reading →
        t.regs.lastConc = concentration F.data0 F.data1 ∧ t.regs.lastValid = true) := by
  obtain ⟨t, hregs, -, hrun⟩ := observe_feedFrame hpos hF
  have hcloses : t.regs.cksum + F.checksum = 0 := by
    rw [hregs]
    exact F.sumChecked_mod_eq_zero_iff.1 hvalid
  have hchecksum : t.regs.pos = .checksum := by rw [hregs]; rfl
  have hkind : t.regs.kindStg = classify F.cmd := by rw [hregs]; rfl
  refine ⟨_, _, _, hrun, (consumeKind_of_closes hchecksum hcloses).trans hkind, fun hread => ?_⟩
  have hconc : t.regs.concStg = concentration F.data0 F.data1 := by
    rw [hregs]
    exact if_pos hread
  rw [State.complete_regs, consumeRegs_closesReading hchecksum
    ((foldByte_eq_zero_iff _ _).1 hcloses) (hkind.trans hread)]
  exact ⟨hconc, rfl⟩

/-! ### The statements -/

/-- Settles O35: the checksum byte is the formula's (`checksumFormula`); every driven frame is a built
one (`exec_drives_built_frame`), and built frames sum to zero (`buildFrame_sumChecked`), which is what
the parser asks for (`observe_feedFrame_of_valid`). -/
theorem builtFramesAreChecksumValid : Obligations.BuiltFramesAreChecksumValid := by
  refine ⟨fun cmd d0 d1 d2 d3 d4 => ?bytes, fun i s t o h ho hv => ?driven,
    fun cmd d0 d1 d2 d3 d4 s hpos => ?parsed⟩
  case bytes =>
    obtain ⟨hck, -⟩ := checksumFormula (buildFrame cmd d0 d1 d2 d3 d4) 0
    exact ⟨_, rfl, hck⟩
  case driven =>
    obtain ⟨cmd, d0, d1, d2, d3, d4, hframe⟩ := exec_drives_built_frame h ho hv
    rw [hframe, packedBytes_pack_sum]
    exact buildFrame_sumChecked cmd d0 d1 d2 d3 d4
  case parsed =>
    obtain ⟨outs, o, t, hrun, hkind, -⟩ := observe_feedFrame_of_valid hpos
      (F := buildFrame cmd d0 d1 d2 d3 d4) rfl (buildFrame_sumChecked cmd d0 d1 d2 d3 d4)
    exact ⟨outs, o, t, hrun, hkind⟩

/-- Settles O37: status and frame are the operation's own (`exec_codec`). -/
theorem codecIsStateless : Obligations.CodecIsStateless := by
  intro i s t hcodec
  obtain ⟨st, f, he⟩ := exec_codec hcodec
  exact ⟨_, _, _, _, he s, he t, rfl, rfl, rfl, rfl, rfl, rfl, rfl, rfl, rfl, rfl⟩

/-- Settles O30: the bytes are a checksum-valid frame (`observe_feedFrame_of_valid`). -/
theorem encReadDrivesRequest : Obligations.EncReadDrivesRequest := by
  refine ⟨fun w h => ⟨_, decode_eq_encRead h⟩,
    fun _ s => congrArg Host.Outcome.next (complete_driving_frame s requestReadingFrame_pack), fun s hpos => ?_⟩
  obtain ⟨outs, o, t, hrun, hkind, hreading⟩ :=
    observe_feedFrame_of_valid (F := requestReadingFrame) hpos rfl (by decide)
  obtain ⟨hconc, hvalid⟩ := hreading rfl
  exact ⟨outs, o, t, hrun, hkind, hconc, hvalid⟩

/-- Settles O31: the bytes are a checksum-valid frame (`observe_feedFrame_of_valid`). -/
theorem encAbcOffDrivesDisable : Obligations.EncAbcOffDrivesDisable := by
  refine ⟨fun w h => ⟨_, decode_eq_encAbcOff h⟩,
    fun _ s => congrArg Host.Outcome.next (complete_driving_frame s disableAbcFrame_pack), fun s hpos => ?_⟩
  obtain ⟨outs, o, t, hrun, hkind, -⟩ :=
    observe_feedFrame_of_valid (F := disableAbcFrame) hpos rfl (by decide)
  exact ⟨outs, o, t, hrun, hkind⟩

/-- Settles O32: the range check accepts exactly the three ranges (`rangeIsValid_iff_toNat`). -/
theorem encSetRangeDrivesFrameOrError : Obligations.EncSetRangeDrivesFrameOrError := by
  refine ⟨fun w h => (decode_eq_encSetRange h).trans (congrArg Instr.encSetRange (argField_eq_ofNat w)),
    fun r s frame => ⟨fun hframe => ?valid, fun h2 h5 h10 => ?invalid⟩⟩
  case valid =>
    obtain ⟨hr, rfl⟩ | ⟨hr, rfl⟩ | ⟨hr, rfl⟩ := hframe
    · obtain rfl : r = 2000 := BitVec.eq_of_toNat_eq hr
      exact exec_encSetRange_of_valid s (by decide) (by decide)
    · obtain rfl : r = 5000 := BitVec.eq_of_toNat_eq hr
      exact exec_encSetRange_of_valid s (by decide) (by decide)
    · obtain rfl : r = 10000 := BitVec.eq_of_toNat_eq hr
      exact exec_encSetRange_of_valid s (by decide) (by decide)
  case invalid =>
    have hrange : rangeIsValid r = false := by
      rw [Bool.eq_false_iff, Ne, rangeIsValid_iff_toNat]
      omega
    exact execEncSetRange_invalid r s hrange

end Sys2Proof.Machine

/-! PROOFS of the statements about INIT and the reset input (spec/42_control.md): both leave the
channel-open state, which is the state of power-on with the port kept. -/

namespace Sys2Proof

theorem decode_eq_init {w : OpWord} (h : w.toNat / 65536 = 4) : decode w = .init (argField w) := by
  have hop : opField w = 4 := (opField_eq_iff w 4).2 h
  simp [decode, hop]

end Sys2Proof

namespace Sys2Proof.Machine

/-- Nothing of the state but the port outlives INIT or a reset (spec/42_control.md R106, R107). -/
theorem State.channelOpen_eq_reset (s : State) :
    s.channelOpen = { State.reset with port := s.port } := rfl

/-- Settles O8: a reset step ends in the channel-open state (`step_of_reset`), as INIT does
(`exec_init`), and that is the state of power-on (`State.channelOpen_eq_reset`). -/
theorem resetInputOverridesOperation : Obligations.ResetInputOverridesOperation := by
  intro s opw rest rsv hp
  have hstep : step s = .next { State.reset with port := rest } := by
    rw [step_of_reset hp, State.channelOpen_eq_reset]
  refine ⟨hstep, ?_, hstep⟩
  rw [exec_init, step_of_reset hp]

/-- Settles O40: code 4 is INIT (`decode_eq_init`), and INIT leaves the values of power-on
(`State.channelOpen_eq_reset`) whatever the state was. -/
theorem initRestoresChannelOpen : Obligations.InitRestoresChannelOpen := by
  refine ⟨fun w h => ⟨_, decode_eq_init h⟩, fun rsv s => ?_⟩
  rw [exec_init, State.channelOpen_eq_reset]
  rfl

end Sys2Proof.Machine

/-! PROOFS of the statements about errors and idle steps (spec/60_exceptions.md): the reserved codes and
what they do, and runs in which nothing is presented. -/

namespace Sys2Proof

/-- The codes from 5 on are the three reserved ones (spec/30_encoding.md R62). -/
theorem decode_reserved {w : OpWord} (h : 5 ≤ w.toNat / 65536) :
    decode w = .reserved5 (argField w) ∨ decode w = .reserved6 (argField w) ∨
      decode w = .reserved7 (argField w) := by
  have hne : ∀ op : BitVec 3, op.toNat < 5 → opField w ≠ op := fun op hop heq => by
    have := (opField_eq_iff w op).1 heq
    omega
  rw [decode, if_neg (hne 0 (by decide)), if_neg (hne 1 (by decide)), if_neg (hne 2 (by decide)),
    if_neg (hne 3 (by decide)), if_neg (hne 4 (by decide))]
  split_ifs
  · exact .inl rfl
  · exact .inr (.inl rfl)
  · exact .inr (.inr rfl)

end Sys2Proof

namespace Sys2Proof.Machine

/-- A reserved operation is illegal, whatever its operand bits (spec/60_exceptions.md R117). -/
theorem exec_reserved {i : Instr} {arg : Half}
    (h : i = .reserved5 arg ∨ i = .reserved6 arg ∨ i = .reserved7 arg) (s : State) :
    exec i s = .next s.illegal := by
  obtain rfl | rfl | rfl := h <;> rfl

/-- The environment presents no operation and no reset from now on. -/
def State.PresentsNothing (s : State) : Prop := ∀ i ∈ s.port, i.rst = false ∧ i.opw = none

/-- A step in which nothing is presented is idle and takes one entry of the port, if there is one. -/
theorem State.PresentsNothing.step_eq {s : State} (h : s.PresentsNothing) :
    step s = .next (State.idle { s with port := s.port.tail }) := by
  obtain ⟨rest, hport, hstep⟩ | ⟨i, rest, hp, hrst, -⟩ | ⟨i, w, rest, hp, -, hopw, -⟩ := step_cases s
  · obtain ⟨hp, rfl⟩ | ⟨i, hp, -⟩ := hport <;> rw [hstep, hp] <;> rfl
  · obtain ⟨hnone, -⟩ := h i (by simp [hp])
    simp [hnone] at hrst
  · obtain ⟨-, hnone⟩ := h i (by simp [hp])
    simp [hnone] at hopw

/-- Settles O41: the codes from 5 on are the reserved ones (`decode_reserved`), and each of them is
illegal (`exec_reserved`). -/
theorem reservedCodesAreIllegal : Obligations.ReservedCodesAreIllegal :=
  ⟨fun w hcode => ⟨argField w, decode_reserved hcode⟩, fun _ _ s hi => ⟨exec_reserved hi s, rfl, rfl⟩⟩

/-- Settles O9, by induction on the number of steps: each is idle (`State.PresentsNothing.step_eq`), and
the entries that remain present nothing either. -/
theorem idleEngineHoldsRegisters : Obligations.IdleEngineHoldsRegisters := by
  intro n
  induction n with
  | zero => exact fun s _ => ⟨s, rfl, rfl⟩
  | succ n ih =>
    intro s (h : s.PresentsNothing)
    obtain ⟨t, hrun, hregs⟩ := ih (State.idle { s with port := s.port.tail })
      fun i hi => h i (List.mem_of_mem_tail hi)
    exact ⟨t, (core_run_succ h.step_eq n).trans hrun, hregs⟩

end Sys2Proof.Machine

/-! PROOFS of the statements about every operation word (spec/30_encoding.md): decoding and encoding
undo each other, since a word is its code and its operand bits and nothing else. -/

namespace Sys2Proof

/-! ### Decoding by the number of the code -/

section
variable {w : OpWord}

theorem decode_eq_consume (h : w.toNat / 65536 = 0) :
    decode w = .consume (byteField w) (highByteField w) := by
  have hop : opField w = 0 := (opField_eq_iff w 0).2 h
  simp [decode, hop]

theorem decode_eq_reserved5 (h : w.toNat / 65536 = 5) : decode w = .reserved5 (argField w) := by
  have hop : opField w = 5 := (opField_eq_iff w 5).2 h
  simp [decode, hop]

theorem decode_eq_reserved6 (h : w.toNat / 65536 = 6) : decode w = .reserved6 (argField w) := by
  have hop : opField w = 6 := (opField_eq_iff w 6).2 h
  simp [decode, hop]

theorem decode_eq_reserved7 (h : w.toNat / 65536 = 7) : decode w = .reserved7 (argField w) := by
  have hop : opField w = 7 := (opField_eq_iff w 7).2 h
  simp [decode, hop]

end

theorem byteField_eq_ofNat (w : OpWord) : byteField w = BitVec.ofNat 8 (w.toNat % 256) :=
  BitVec.eq_of_toNat_eq <| by simp [byteField_toNat]

theorem highByteField_eq_ofNat (w : OpWord) :
    highByteField w = BitVec.ofNat 8 (w.toNat / 256 % 256) :=
  BitVec.eq_of_toNat_eq <| by simp [highByteField_toNat]

/-! ### The code and the operand bits through decoding -/

theorem opcode_decode (w : OpWord) : opcode (decode w) = opField w := by
  unfold decode
  split_ifs with h0 h1 h2 h3 h4 h5 h6
  case neg =>
    change 7 = opField w
    bv_omega
  all_goals exact Eq.symm ‹_›

theorem highByteField_append_byteField (w : OpWord) :
    highByteField w ++ byteField w = argField w := by
  apply BitVec.eq_of_toNat_eq
  rw [bytes_toNat, highByteField_toNat, byteField_toNat, argField_toNat]
  omega

theorem operandBits_decode (w : OpWord) : operandBits (decode w) = argField w := by
  unfold decode
  split_ifs
  · exact highByteField_append_byteField w
  all_goals rfl

theorem encode_toNat_div (i : Instr) : (encode i).toNat / 65536 = (opcode i).toNat :=
  (opField_eq_iff _ _).1 (opField_encode i)

/-! ### The statements -/

/-- Settles O3, one case per operation: the word's code selects the operation again, and its operand
bits are the operands (`argField_encode`). -/
theorem decodeOfEncode : Obligations.DecodeOfEncode := by
  intro i
  have hcode := encode_toNat_div i
  have harg := argField_encode i
  cases i with
  | consume byte rsv => exact decode_encode_consume byte rsv
  | encRead rsv => exact (decode_eq_encRead hcode).trans (congrArg Instr.encRead harg)
  | encAbcOff rsv => exact (decode_eq_encAbcOff hcode).trans (congrArg Instr.encAbcOff harg)
  | encSetRange range => exact (decode_eq_encSetRange hcode).trans (congrArg Instr.encSetRange harg)
  | init rsv => exact (decode_eq_init hcode).trans (congrArg Instr.init harg)
  | reserved5 arg => exact (decode_eq_reserved5 hcode).trans (congrArg Instr.reserved5 harg)
  | reserved6 arg => exact (decode_eq_reserved6 hcode).trans (congrArg Instr.reserved6 harg)
  | reserved7 arg => exact (decode_eq_reserved7 hcode).trans (congrArg Instr.reserved7 harg)

/-- Settles O4: decoding keeps the code (`opcode_decode`) and the operand bits (`operandBits_decode`),
and those are the whole word. -/
theorem encodeOfDecode : Obligations.EncodeOfDecode := by
  intro w
  apply BitVec.eq_of_toNat_eq
  rw [encode_toNat, opcode_decode, operandBits_decode, opField_toNat, argField_toNat]
  omega

/-- Settles O5: one `decode_eq_` lemma per code, with the fields as numbers. -/
theorem operationCodeSelectsOperation : Obligations.OperationCodeSelectsOperation := by
  intro w
  simp only [← argField_eq_ofNat, ← byteField_eq_ofNat, ← highByteField_eq_ofNat]
  exact ⟨decode_eq_consume, decode_eq_encRead, decode_eq_encAbcOff, decode_eq_encSetRange,
    decode_eq_init, decode_eq_reserved5, decode_eq_reserved6, decode_eq_reserved7⟩

/-- Settles O1: ten closed words. -/
theorem writtenWordsDecode : Obligations.WrittenWordsDecode := by
  unfold Obligations.WrittenWordsDecode
  decide

end Sys2Proof

/-! PROOFS of the statements about what every operation keeps (spec/10_state.md): CONSUME register by
register, the write matrix, and the machine's invariant. -/

namespace Sys2Proof.Machine

/-! ### CONSUME register by register -/

section
variable (b : Byte) (r : Regs)

/-- What CONSUME writes, register by register (spec/10_state.md R23). -/
theorem consumeRegs_eq_writes :
    consumeRegs b r =
      { pos := if r.pos = .sync then (if b = 0xFF then .address else .sync) else r.pos.advance
        cksum := if r.pos = .sync then (if b = 0xFF then 0 else r.cksum) else foldByte r.cksum b
        kindStg := if r.pos = .command then classify b else r.kindStg
        data0 := if r.pos = .data0 then b else r.data0
        concStg :=
          if r.pos = .data1 ∧ r.kindStg = .reading then concentration r.data0 b else r.concStg
        lastConc :=
          if r.pos = .checksum ∧ foldByte r.cksum b = 0 ∧ r.kindStg = .reading then r.concStg
          else r.lastConc
        lastValid :=
          if r.pos = .checksum ∧ foldByte r.cksum b = 0 ∧ r.kindStg = .reading then true
          else r.lastValid } := by
  obtain ⟨pos, cksum, kindStg, data0, concStg, lastConc, lastValid⟩ := r
  cases pos with
  | sync =>
    by_cases hb : b = 0xFF
    · rw [consumeRegs_sync_of_eq rfl hb]
      simp [hb, Regs.setCksum, Regs.setPos]
    · rw [consumeRegs_sync_of_ne rfl hb, if_pos rfl, if_pos rfl, if_neg hb, if_neg hb]
      rfl
  | data1 =>
    rw [consumeRegs_data1_eq rfl]
    simp [Regs.fold, Regs.setCksum, Regs.setConcStg, Regs.setPos, FramePos.advance]
  | checksum =>
    by_cases h : foldByte cksum b = 0 ∧ kindStg = .reading
    · obtain ⟨hclose, hk⟩ := h
      rw [consumeRegs_closesReading rfl ((foldByte_eq_zero_iff _ b).1 hclose) hk]
      simp [hclose, hk, Regs.fold, Regs.setCksum, Regs.setReading, Regs.setPos, FramePos.advance]
    · rw [consumeRegs_checksum_of_not_reading rfl h]
      simp only [reduceCtorEq, false_and, true_and, if_false, h]
      rfl
  | _ => rfl

theorem consumeRegs_kindStg :
    (consumeRegs b r).kindStg = if r.pos = .command then classify b else r.kindStg := by
  rw [consumeRegs_eq_writes]

theorem consumeRegs_field_data0 :
    (consumeRegs b r).data0 = if r.pos = .data0 then b else r.data0 := by
  rw [consumeRegs_eq_writes]

theorem consumeRegs_concStg :
    (consumeRegs b r).concStg =
      if r.pos = .data1 ∧ r.kindStg = .reading then concentration r.data0 b else r.concStg := by
  rw [consumeRegs_eq_writes]

theorem consumeRegs_lastConc :
    (consumeRegs b r).lastConc =
      if r.pos = .checksum ∧ foldByte r.cksum b = 0 ∧ r.kindStg = .reading then r.concStg
      else r.lastConc := by
  rw [consumeRegs_eq_writes]

theorem consumeRegs_lastValid :
    (consumeRegs b r).lastValid =
      if r.pos = .checksum ∧ foldByte r.cksum b = 0 ∧ r.kindStg = .reading then true
      else r.lastValid := by
  rw [consumeRegs_eq_writes]

end

/-! ### The invariant of the registers -/

theorem Regs.reset_inv : Regs.reset.Inv := by
  unfold Regs.Inv
  decide

theorem concentration_div (d0 d1 : Byte) : (concentration d0 d1).toNat / 256 = d0.toNat := by
  have hlow := d1.isLt
  rw [concentration_toNat]
  omega

theorem FramePos.index_injective : Function.Injective FramePos.index := by
  intro p q h
  cases p <;> cases q <;> cases h <;> rfl

theorem FramePos.index_advance {p : FramePos} (h : p.index ≤ 7) :
    p.advance.index = p.index + 1 := by
  cases p with
  | checksum => exact absurd h (by decide)
  | _ => rfl

/-- CONSUME moves the position up by one at most (spec/40_parser.md R83). -/
theorem consumeRegs_pos_index_le (b : Byte) (r : Regs) :
    (consumeRegs b r).pos.index ≤ r.pos.index + 1 := by
  rw [consumeRegs_pos]
  split_ifs
  · exact Nat.le_add_left 1 _
  · exact Nat.zero_le _
  · cases r.pos <;> decide

/-- Only the sync byte leaves the parser at the address position. -/
theorem syncByte_of_consumeRegs_pos_address {b : Byte} {r : Regs}
    (h : (consumeRegs b r).pos = .address) : r.pos = .sync ∧ b = 0xFF := by
  rw [consumeRegs_pos] at h
  split_ifs at h with hsync hb
  · exact ⟨hsync, hb⟩
  · cases hp : r.pos with
    | sync => exact absurd hp hsync
    | _ => simp [hp, FramePos.advance] at h

/-- CONSUME keeps the registers' invariant: each clause is established by the byte at one position
and kept by every other byte. -/
theorem consumeRegs_keeps_inv (b : Byte) {r : Regs} (h : r.Inv) : (consumeRegs b r).Inv := by
  obtain ⟨hkind, -, hconc, hlast⟩ := h
  have hle := consumeRegs_pos_index_le b r
  refine ⟨fun hindex => ?kind, fun haddress => ?cksum, fun hindex hread => ?conc, fun hvalid => ?last⟩
  case kind =>
    rw [consumeRegs_kindStg]
    split_ifs with hcommand
    · exact classify_ne_incomplete b
    · have hne : r.pos.index ≠ 2 := fun h => hcommand (FramePos.index_injective h)
      exact hkind (by omega)
  case cksum =>
    obtain ⟨hsync, hb⟩ := syncByte_of_consumeRegs_pos_address haddress
    rw [consumeRegs_sync_of_eq hsync hb]
    rfl
  case conc =>
    have hfour : 4 ≤ r.pos.index := by omega
    have hcommand : r.pos ≠ .command := fun hp => by simp [hp, FramePos.index] at hfour
    have hdata0 : r.pos ≠ .data0 := fun hp => by simp [hp, FramePos.index] at hfour
    rw [consumeRegs_kindStg, if_neg hcommand] at hread
    rw [consumeRegs_concStg, consumeRegs_field_data0, if_neg hdata0]
    split_ifs with hdata1
    · exact concentration_div r.data0 b
    · have hne : r.pos.index ≠ 4 := fun h => hdata1 ⟨FramePos.index_injective h, hread⟩
      exact hconc (by omega) hread
  case last =>
    obtain ⟨hc, hv⟩ | ⟨-, -, -, -, hset⟩ := consumeRegs_reading_cases b r
    · rw [hc]
      exact hlast (hv.symm.trans hvalid)
    · simp [hset] at hvalid

/-! ### The invariant of the outputs and of the machine -/

theorem resultOf_none_inv (r : Regs) {k : PacketKind} {st : Status}
    (h : st ≠ .ok → k = .incomplete) : (resultOf r k st none).Inv := by
  refine ⟨fun _ => rfl, fun herror => ⟨rfl, h herror⟩, fun hframe => ?_⟩
  cases hframe

/-- A built frame starts with the sync byte and the address, and its checksum is right
(spec/41_codec.md R92). -/
theorem resultOf_built_inv (r : Regs) (cmd d0 d1 d2 d3 d4 : Byte) :
    (resultOf r .incomplete .ok (some (buildFrame cmd d0 d1 d2 d3 d4))).Inv := by
  set F := buildFrame cmd d0 d1 d2 d3 d4
  have hbyte : ∀ k < 9, F.bytes[k]? = some (packedByte F.pack k) := F.pack_packsBytes
  refine ⟨fun hnone => ?_, fun herror => absurd rfl herror, fun _ => ⟨rfl, rfl, ?_, ?_, ?_⟩⟩
  · cases hnone
  · exact (Option.some.inj (hbyte 0 (by decide))).symm
  · exact (Option.some.inj (hbyte 1 (by decide))).symm
  · rw [resultOf_frame_some, packedBytes_pack_sum]
    exact buildFrame_sumChecked cmd d0 d1 d2 d3 d4

/-- An operation leaves the machine's invariant if it leaves the registers' and drives possible
outputs, and reports a packet only at Sync and a `Reading` only with `LAST_VALID` set. -/
theorem State.complete_inv (s : State) {r : Regs} {k : PacketKind} {st : Status} {f : Option Frame}
    (hr : r.Inv) (ho : (resultOf r k st f).Inv) (hsync : k ≠ .incomplete → r.pos = .sync)
    (hread : k = .reading → r.lastValid = true) : (s.complete r k st f).Inv := by
  refine ⟨hr, fun o hout => ?_⟩
  cases hout
  exact ⟨ho, rfl, rfl, hsync, hread⟩

/-- The same for an operation that reports no packet. -/
theorem State.complete_incomplete_inv (s : State) {r : Regs} {st : Status} {f : Option Frame}
    (hr : r.Inv) (ho : (resultOf r .incomplete st f).Inv) : (s.complete r .incomplete st f).Inv :=
  s.complete_inv hr ho (fun h => absurd rfl h) (fun h => by cases h)

theorem State.channelOpen_inv (s : State) : s.channelOpen.Inv :=
  s.complete_incomplete_inv Regs.reset_inv (resultOf_none_inv _ fun _ => rfl)

/-- CONSUME reports a packet only where it returns to Sync, and a `Reading` only where it sets
`LAST_VALID` (spec/40_parser.md R80). -/
theorem complete_consume_inv (b : Byte) (s : State) (hr : s.regs.Inv) :
    (s.complete (consumeRegs b s.regs) (consumeKind b s.regs) .ok none).Inv := by
  refine s.complete_inv (consumeRegs_keeps_inv b hr) (resultOf_none_inv _ fun h => absurd rfl h) ?_ ?_
  all_goals obtain hnone | ⟨hpos, hclose, hkind⟩ := consumeKind_cases b s.regs
  · exact fun hne => absurd hnone hne
  · rw [consumeRegs_pos, hpos]
    exact fun _ => rfl
  · simp [hnone]
  · intro hread
    rw [consumeRegs_lastValid, if_pos ⟨hpos, hclose, hkind.symm.trans hread⟩]

/-- Every frame of the codec is one that the builder makes (spec/41_codec.md R92, R94, R96). -/
theorem codecFrame_eq_build {F : Frame} (h : F = requestReadingFrame ∨ F = disableAbcFrame ∨
    ∃ r, rangeIsValid r = true ∧ F = setRangeFrame r) :
    ∃ cmd d0 d1 d2 d3 d4, F = buildFrame cmd d0 d1 d2 d3 d4 := by
  obtain rfl | rfl | ⟨r, -, rfl⟩ := h
  · exact ⟨_, _, _, _, _, _, requestReadingFrame_eq_build⟩
  · exact ⟨_, _, _, _, _, _, disableAbcFrame_eq_build⟩
  · exact ⟨_, _, _, _, _, _, rfl⟩

/-- An operation needs the registers' invariant only: it reads no output of the step before. -/
theorem exec_keeps_inv {i : Instr} {s t : State} (hr : s.regs.Inv) (h : exec i s = .next t) : t.Inv := by
  obtain ⟨b, _, -, e⟩ | ⟨F, hF, e⟩ | ⟨_, -, -, e⟩ | ⟨_, -, e⟩ | ⟨-, e⟩ := exec_cases i s
  all_goals cases e.symm.trans h
  · exact complete_consume_inv b s hr
  · obtain ⟨cmd, d0, d1, d2, d3, d4, rfl⟩ := codecFrame_eq_build hF
    exact s.complete_incomplete_inv hr (resultOf_built_inv s.regs cmd d0 d1 d2 d3 d4)
  · exact s.complete_incomplete_inv hr (resultOf_none_inv _ fun _ => rfl)
  · exact s.channelOpen_inv
  · exact s.complete_incomplete_inv hr (resultOf_none_inv _ fun _ => rfl)

/-! ### The statements -/

/-- Settles O44: an idle step drives no output and holds the registers, a reset step opens the channel
(`State.channelOpen_inv`), and a presented operation keeps the invariant (`exec_keeps_inv`). -/
theorem stepKeepsInvariant : Obligations.StepKeepsInvariant := by
  rintro s t ⟨hr, -⟩ h
  obtain ⟨rest, -, e⟩ | ⟨i, rest, -, -, e⟩ | ⟨i, w, rest, -, -, -, e⟩ := step_cases s
  · cases e.symm.trans h
    exact ⟨hr, fun o ho => by cases ho⟩
  · cases e.symm.trans h
    exact State.channelOpen_inv _
  · exact exec_keeps_inv (s := { s with port := rest }) hr (e.symm.trans h)

/-- Settles O43: power-on is the channel-open state (`State.channelOpen_eq_reset`). -/
theorem resetMeetsInvariant : Obligations.ResetMeetsInvariant := State.reset.channelOpen_inv

/-- Settles O22: `POS` follows `consumeRegs_pos`, and a kind is reported by the byte that closes a frame
only (`consumeKind_cases`). -/
theorem consumeMovesPosition : Obligations.ConsumeMovesPosition := by
  refine fun b rsv s => ⟨_, _, exec_consume b rsv s, rfl, ?inside, ?closing, ?starts, ?stays, ?kind⟩
  case inside =>
    intro hlo hhi
    have hpos : s.regs.pos ≠ .sync := fun hp => by simp [hp, FramePos.index] at hlo
    rw [State.complete_regs, consumeRegs_pos, if_neg hpos, FramePos.index_advance hhi]
  case closing =>
    intro hindex
    have hpos : s.regs.pos = .checksum := FramePos.index_injective hindex
    rw [State.complete_regs, consumeRegs_pos, hpos]
    rfl
  case starts =>
    intro hindex hb
    have hpos : s.regs.pos = .sync := FramePos.index_injective hindex
    rw [State.complete_regs, consumeRegs_sync_of_eq hpos hb]
    rfl
  case stays =>
    intro hindex hb
    have hpos : s.regs.pos = .sync := FramePos.index_injective hindex
    rw [State.complete_regs, consumeRegs_sync_of_ne hpos hb, hpos]
    rfl
  case kind =>
    intro hne
    obtain hnone | ⟨hpos, hclose, -⟩ := consumeKind_cases b s.regs
    · exact absurd hnone hne
    · exact ⟨congrArg FramePos.index hpos, (foldByte_eq_zero_iff _ b).1 hclose⟩

/-- Settles O47: CONSUME's row is `consumeRegs_eq_writes`; codec operations (`exec_codec`) and reserved
codes (`exec_reserved`) keep the registers, and INIT writes those of reset. -/
theorem writeMatrix : Obligations.WriteMatrix := by
  refine ⟨fun b rsv s => ⟨_, exec_consume b rsv s, rfl, ?cksum, ?kindStg, ?data0, ?concStg, ?last⟩,
    fun i arg s hi => ?keeps, fun rsv s => ⟨_, exec_init rsv s, rfl, rfl⟩⟩
  case cksum =>
    intro hpos hb
    rw [State.complete_regs, consumeRegs_sync_of_ne hpos hb]
  case kindStg =>
    intro hpos
    rw [State.complete_regs, consumeRegs_kindStg, if_neg hpos]
  case data0 =>
    intro hpos
    rw [State.complete_regs, consumeRegs_field_data0, if_neg hpos]
  case concStg =>
    intro hpos
    rw [State.complete_regs, consumeRegs_concStg, if_neg hpos]
  case last =>
    intro hnot
    obtain hkeep | ⟨hpos, hclose, hk, -⟩ := consumeRegs_reading_cases b s.regs
    · exact hkeep
    · exact absurd ⟨hpos, (foldByte_eq_zero_iff _ b).1 hclose, hk⟩ hnot
  case keeps =>
    obtain hcodec | hreserved := hi
    · obtain ⟨st, f, he⟩ := exec_codec hcodec
      exact ⟨_, he s, rfl, rfl⟩
    · exact ⟨_, exec_reserved hreserved s, rfl, rfl⟩

end Sys2Proof.Machine

/-! PROOFS of the statements about whole runs (spec/20_memory.md, spec/70_reset_and_hazards.md): every
run goes on, and states that agree on what a run can show give the same results. -/

namespace Sys2Proof.Machine

/-! ### Runs answer -/

/-- Every run answers one result for each input and takes nothing else from the port
(spec/70_reset_and_hazards.md R147). -/
theorem observe_total (inputs : List PortInput) (s : State) : ∃ outs t,
    observe inputs s = .next (outs, t) ∧ outs.length = inputs.length ∧ t.port = s.port := by
  induction inputs generalizing s with
  | nil => exact ⟨[], s, rfl, rfl, rfl⟩
  | cons i rest ih =>
    obtain ⟨s', hstep, hport⟩ := step_next (s.present i)
    obtain ⟨outs, t, hrun, hlen, hkeep⟩ := ih s'
    exact ⟨_, t, observe_cons hstep hrun, congrArg Nat.succ hlen, hkeep.trans hport⟩

theorem core_run_total (n : Nat) (s : State) : ∃ t : State, Sys2Proof.core.run n s = .next t := by
  induction n generalizing s with
  | zero => exact ⟨s, rfl⟩
  | succ n ih =>
    obtain ⟨s', hstep, -⟩ := step_next s
    obtain ⟨t, hrun⟩ := ih s'
    exact ⟨t, (core_run_succ hstep n).trans hrun⟩

/-! ### Runs that cannot be told apart -/

/-- Two answers show the same outputs, and their registers are related by `R`. -/
def AnswerAlike (R : Regs → Regs → Prop) (a b : Host.Outcome State Fault Refusal) : Prop :=
  ∃ s t, a = .next s ∧ b = .next t ∧ s.out = t.out ∧ R s.regs t.regs

/-- From related registers every operation drives the same outputs and leaves related registers. -/
def ExecAlike (R : Regs → Regs → Prop) : Prop :=
  ∀ (i : Instr) (s t : State), R s.regs t.regs → AnswerAlike R (exec i s) (exec i t)

section
variable {R : Regs → Regs → Prop}

theorem ExecAlike.stepOn (hR : ExecAlike R) (hreset : R Regs.reset Regs.reset) (i : PortInput)
    {s t : State} (h : R s.regs t.regs) : AnswerAlike R (stepOn i s) (stepOn i t) := by
  obtain ⟨rst, opw⟩ := i
  cases rst with
  | true => exact ⟨_, _, rfl, rfl, rfl, hreset⟩
  | false =>
    cases opw with
    | none => exact ⟨_, _, rfl, rfl, rfl, h⟩
    | some w => exact hR (decode w) s t h

/-- Runs from related registers show the same results and end in related registers. -/
theorem ExecAlike.observe (hR : ExecAlike R) (hreset : R Regs.reset Regs.reset)
    (inputs : List PortInput) {s t : State} (h : R s.regs t.regs) : ∃ outs s' t',
      observe inputs s = .next (outs, s') ∧ observe inputs t = .next (outs, t') ∧
        R s'.regs t'.regs := by
  induction inputs generalizing s t with
  | nil => exact ⟨[], s, t, rfl, rfl, h⟩
  | cons i rest ih =>
    obtain ⟨s₁, t₁, hs, ht, hout, hregs⟩ := hR.stepOn hreset i h
    obtain ⟨outs, s', t', hs', ht', hend⟩ := ih hregs
    refine ⟨s₁.out :: outs, s', t', observe_cons hs hs', ?_, hend⟩
    rw [hout]
    exact observe_cons ht ht'

end

/-- Equal registers cannot be told apart (spec/10_state.md R24). -/
theorem execAlike_eq : ExecAlike Eq := fun i s t h => by
  obtain ⟨s', t', hs, ht, hregs, hout, -⟩ := onlyRegistersCarry.1 i s t h
  exact ⟨s', t', hs, ht, hout, hregs⟩

/-- The two register files agree on what can still show: `POS` and the last known concentration, and
each internal register from the position on at which the frame in progress has written it
(spec/10_state.md R16 to R19). -/
structure Regs.AgreeOnVisible (r r' : Regs) : Prop where
  pos : r.pos = r'.pos
  lastConc : r.lastConc = r'.lastConc
  lastValid : r.lastValid = r'.lastValid
  cksum : 1 ≤ r.pos.index → r.cksum = r'.cksum
  kindStg : 3 ≤ r.pos.index → r.kindStg = r'.kindStg
  data0 : 4 ≤ r.pos.index → r.data0 = r'.data0
  concStg : 5 ≤ r.pos.index → r.kindStg = .reading → r.concStg = r'.concStg

section
variable {r r' : Regs}

theorem Regs.agreeOnVisible_refl (r : Regs) : r.AgreeOnVisible r :=
  ⟨rfl, rfl, rfl, fun _ => rfl, fun _ => rfl, fun _ => rfl, fun _ _ => rfl⟩

/-- At Sync no internal register has been written yet. -/
theorem Regs.agreeOnVisible_of_sync (hr : r.pos = .sync) (hr' : r'.pos = .sync)
    (hconc : r.lastConc = r'.lastConc) (hvalid : r.lastValid = r'.lastValid) :
    r.AgreeOnVisible r' := by
  have hindex : r.pos.index = 0 := congrArg FramePos.index hr
  refine ⟨hr.trans hr'.symm, hconc, hvalid, ?_, ?_, ?_, ?_⟩ <;> intro hpos <;> omega

theorem Regs.AgreeOnVisible.consumeKind (h : r.AgreeOnVisible r') (b : Byte) :
    consumeKind b r = consumeKind b r' := by
  by_cases hpos : r.pos = .checksum
  · rw [consumeKind_eq_ite, consumeKind_eq_ite, ← h.pos,
      ← h.cksum (by simp [hpos, FramePos.index]), ← h.kindStg (by simp [hpos, FramePos.index])]
  · rw [consumeKind_incomplete b r hpos, consumeKind_incomplete b r' (h.pos ▸ hpos)]

/-- The staged registers that decide whether and which reading is decoded have been written when the
checksum byte arrives. -/
theorem Regs.AgreeOnVisible.decodedReading (h : r.AgreeOnVisible r') (b : Byte) :
    (consumeRegs b r).lastConc = (consumeRegs b r').lastConc ∧
      (consumeRegs b r).lastValid = (consumeRegs b r').lastValid := by
  by_cases hpos : r.pos = .checksum
  · have hcksum := h.cksum (by simp [hpos, FramePos.index])
    have hkind := h.kindStg (by simp [hpos, FramePos.index])
    have hconc := h.concStg (by simp [hpos, FramePos.index])
    simp only [consumeRegs_lastConc, consumeRegs_lastValid, ← h.pos, ← hcksum, ← hkind,
      ← h.lastConc, ← h.lastValid, and_true]
    split_ifs with hdecodes
    · obtain ⟨-, -, hread⟩ := hdecodes
      exact hconc hread
    · rfl
  · obtain ⟨hc, hv⟩ := consumeRegs_keeps_reading (b := b) hpos
    obtain ⟨hc', hv'⟩ := consumeRegs_keeps_reading (b := b) (r := r') (h.pos ▸ hpos)
    exact ⟨hc.trans (h.lastConc.trans hc'.symm), hv.trans (h.lastValid.trans hv'.symm)⟩

/-- CONSUME writes an internal register from the byte and from registers written before it. -/
theorem Regs.AgreeOnVisible.consumeRegs (h : r.AgreeOnVisible r') (b : Byte) :
    (consumeRegs b r).AgreeOnVisible (consumeRegs b r') := by
  have hle := consumeRegs_pos_index_le b r
  obtain ⟨hlastConc, hlastValid⟩ := h.decodedReading b
  refine ⟨?pos, hlastConc, hlastValid, fun hpos => ?cksum, fun hpos => ?kindStg,
    fun hpos => ?data0, fun hpos hread => ?concStg⟩
  case pos => rw [consumeRegs_pos, consumeRegs_pos, h.pos]
  case cksum =>
    by_cases hsync : r.pos = .sync
    · have hsync' : r'.pos = .sync := h.pos ▸ hsync
      by_cases hb : b = 0xFF
      · rw [consumeRegs_sync_of_eq hsync hb, consumeRegs_sync_of_eq hsync' hb]
        rfl
      · rw [consumeRegs_sync_of_ne hsync hb, hsync] at hpos
        exact absurd hpos (by decide)
    · rw [consumeRegs_cksum hsync, consumeRegs_cksum (h.pos ▸ hsync), h.cksum]
      exact Nat.pos_of_ne_zero fun hp => hsync (FramePos.index_injective hp)
  case kindStg =>
    rw [consumeRegs_kindStg, consumeRegs_kindStg, ← h.pos]
    split_ifs with hcommand
    · rfl
    · have hne : r.pos.index ≠ 2 := fun hp => hcommand (FramePos.index_injective hp)
      exact h.kindStg (by omega)
  case data0 =>
    rw [consumeRegs_field_data0, consumeRegs_field_data0, ← h.pos]
    split_ifs with hdata0
    · rfl
    · have hne : r.pos.index ≠ 3 := fun hp => hdata0 (FramePos.index_injective hp)
      exact h.data0 (by omega)
  case concStg =>
    have hfour : 4 ≤ r.pos.index := by omega
    have hcommand : r.pos ≠ .command := fun hp => by simp [hp, FramePos.index] at hfour
    rw [consumeRegs_kindStg, if_neg hcommand] at hread
    rw [consumeRegs_concStg, consumeRegs_concStg, ← h.pos, ← h.kindStg (by omega),
      ← h.data0 (by omega)]
    split_ifs with hdata1
    · rfl
    · have hne : r.pos.index ≠ 4 := fun hp => hdata1 ⟨FramePos.index_injective hp, hread⟩
      exact h.concStg (by omega) hread

end

/-- No operation shows a register on which the two files may differ. -/
theorem execAlike_agreeOnVisible : ExecAlike Regs.AgreeOnVisible := by
  intro i s t h
  have hcodec : IsCodec i → AnswerAlike Regs.AgreeOnVisible (exec i s) (exec i t) := fun hi => by
    obtain ⟨st, f, he⟩ := exec_codec hi
    exact ⟨_, _, he s, he t, congrArg some (resultOf_congr h.lastConc h.lastValid _ st f), h⟩
  have hillegal : AnswerAlike Regs.AgreeOnVisible (.next s.illegal) (.next t.illegal) :=
    ⟨_, _, rfl, rfl, congrArg some (resultOf_congr h.lastConc h.lastValid _ _ _), h⟩
  cases i with
  | consume b rsv =>
    have hregs := h.consumeRegs b
    refine ⟨_, _, exec_consume b rsv s, exec_consume b rsv t, congrArg some ?_, hregs⟩
    rw [h.consumeKind b]
    exact resultOf_congr hregs.lastConc hregs.lastValid _ _ _
  | encRead rsv => exact hcodec (.inl ⟨rsv, rfl⟩)
  | encAbcOff rsv => exact hcodec (.inr (.inl ⟨rsv, rfl⟩))
  | encSetRange range => exact hcodec (.inr (.inr ⟨range, rfl⟩))
  | init rsv => exact ⟨_, _, rfl, rfl, rfl, Regs.agreeOnVisible_refl _⟩
  | reserved5 arg => exact hillegal
  | reserved6 arg => exact hillegal
  | reserved7 arg => exact hillegal

/-! ### The statements -/

/-- Settles O7: `step_of_presentWord`. -/
theorem stepRunsPresentedOperation : Obligations.StepRunsPresentedOperation := by
  rintro s w i rest hp rfl
  exact step_of_presentWord hp

/-- Settles O10: `core_run_total` and `observe_total`. -/
theorem everyRunGoesOn : Obligations.EveryRunGoesOn := ⟨core_run_total, observe_total⟩

/-- Settles O29: at Sync the two states agree on all that a run can show, and every operation keeps
that agreement (`execAlike_agreeOnVisible`). -/
theorem internalRegistersAreUnobservable : Obligations.InternalRegistersAreUnobservable := by
  intro inputs s t hs ht hconc hvalid
  obtain ⟨outs, s', t', hrun, hrun', -⟩ := execAlike_agreeOnVisible.observe
    (Regs.agreeOnVisible_refl _) inputs (Regs.agreeOnVisible_of_sync hs ht hconc hvalid)
  exact ⟨outs, s', t', hrun, hrun'⟩

/-- Settles O38: a codec operation keeps the registers (`exec_codec`), and the rest of the run sees
nothing else (`execAlike_eq`). -/
theorem codecOperationsCommute : Obligations.CodecOperationsCommute := by
  intro before after w s hcodec
  obtain ⟨st, f, he⟩ := exec_codec hcodec
  obtain ⟨o1, u, hbefore, hlen, -⟩ := observe_total before s
  have hword : step (u.present (presentWord w)) =
      .next (u.complete u.regs .incomplete st f) :=
    (step_of_presentWord (State.present_port u _)).trans (he u)
  obtain ⟨o2, t, t', hafter, hafter', hregs⟩ := execAlike_eq.observe rfl after
    (s := u) (t := u.complete u.regs .incomplete st f) rfl
  exact ⟨o1, o2, _, t, t', observe_append hbefore hafter,
    observe_append hbefore (observe_cons hword hafter'), hlen, hregs.symm⟩

end Sys2Proof.Machine

/-! PROOFS of the statements about byte streams and about frames that are sent and parsed back
(spec/40_parser.md section 3, spec/41_codec.md section 3). -/

namespace Sys2Proof.Machine

/-! ### The bytes left of a window -/

section
variable {p : FramePos}

theorem FramePos.bytesLeft_eq_zero_iff : p.bytesLeft = 0 ↔ p = .sync := by
  cases p <;> decide

theorem FramePos.bytesLeft_eq_one_iff : p.bytesLeft = 1 ↔ p = .checksum := by
  cases p <;> decide

theorem FramePos.bytesLeft_le (p : FramePos) : p.bytesLeft ≤ 8 := by
  cases p <;> decide

theorem FramePos.index_add_bytesLeft (hp : p ≠ .sync) : p.index + p.bytesLeft = 9 := by
  cases p with
  | sync => exact absurd rfl hp
  | _ => rfl

theorem FramePos.ne_sync_of_lt_bytesLeft {n : Nat} (h : n < p.bytesLeft) : p ≠ .sync := fun hp => by
  simp [hp] at h

end

section
variable {bs : List Byte} {r : Regs}

theorem consumeRegs_bytesLeft {b : Byte} (hpos : r.pos ≠ .sync) :
    r.pos.bytesLeft = (consumeRegs b r).pos.bytesLeft + 1 := by
  rw [consumeRegs_pos, if_neg hpos]
  exact FramePos.bytesLeft_advance hpos

theorem consumeAll_append (xs ys : List Byte) (r : Regs) :
    consumeAll (xs ++ ys) r = consumeAll ys (consumeAll xs r) :=
  List.foldl_append

/-- Bytes that do not run past the window count down to its end (spec/40_parser.md R87). -/
theorem consumeAll_bytesLeft (hlen : bs.length ≤ r.pos.bytesLeft) :
    (consumeAll bs r).pos.bytesLeft + bs.length = r.pos.bytesLeft := by
  induction bs generalizing r with
  | nil => rfl
  | cons b bs ih =>
    have hpos := FramePos.ne_sync_of_lt_bytesLeft hlen
    rw [consumeRegs_bytesLeft (b := b) hpos] at hlen ⊢
    rw [consumeAll_cons, List.length_cons, ← Nat.add_assoc, ih (Nat.le_of_succ_le_succ hlen)]

/-- As many bytes without 0xFF as the window has left, or more, bring the parser to Sync, where it
stays (spec/40_parser.md R88). -/
theorem consumeAll_pos_of_quiet (hquiet : 0xFF ∉ bs) (hlen : r.pos.bytesLeft ≤ bs.length) :
    (consumeAll bs r).pos = .sync := by
  induction bs generalizing r with
  | nil => exact FramePos.bytesLeft_eq_zero_iff.1 (Nat.le_zero.1 hlen)
  | cons b bs ih =>
    have hb : b ≠ 0xFF := (List.ne_of_not_mem_cons hquiet).symm
    rw [consumeAll_cons]
    refine ih (List.not_mem_of_not_mem_cons hquiet) ?_
    by_cases hpos : r.pos = .sync
    · rw [consumeRegs_sync_of_ne hpos hb, hpos]
      exact Nat.zero_le _
    · rw [consumeRegs_bytesLeft (b := b) hpos] at hlen
      exact Nat.le_of_succ_le_succ hlen

/-- After the command byte the rest of the window keeps the staged kind (spec/10_state.md R17). -/
theorem consumeAll_kindStg (hstaged : r.pos.bytesLeft ≤ 6) (hlen : bs.length ≤ r.pos.bytesLeft) :
    (consumeAll bs r).kindStg = r.kindStg := by
  induction bs generalizing r with
  | nil => rfl
  | cons b bs ih =>
    have hcommand : r.pos ≠ .command := fun hp => by
      rw [hp] at hstaged
      exact absurd hstaged (by decide)
    have hleft := consumeRegs_bytesLeft (b := b) (FramePos.ne_sync_of_lt_bytesLeft hlen)
    rw [hleft] at hstaged hlen
    rw [consumeAll_cons, ih (Nat.le_of_succ_le hstaged) (Nat.le_of_succ_le_succ hlen),
      consumeRegs_kindStg, if_neg hcommand]

/-- The byte taken as command stages its kind until the end of the window (spec/40_parser.md R86). -/
theorem consumeAll_kindStg_from_command {c : Byte} (hpos : r.pos = .command)
    (hlen : bs.length ≤ 6) : (consumeAll (c :: bs) r).kindStg = classify c := by
  have hnext : (consumeRegs c r).pos.bytesLeft = 6 := by
    rw [consumeRegs_pos, hpos]
    rfl
  rw [consumeAll_cons, consumeAll_kindStg hnext.le (hnext ▸ hlen), consumeRegs_kindStg, if_pos hpos]

end

/-! ### Bytes that end a window -/

/-- Feeding bytes is CONSUME of one after the other: one result for each, and the registers of
`consumeAll`. -/
theorem observe_feed (bs : List Byte) (s : State) : ∃ outs t,
    observe (feed bs) s = .next (outs, t) ∧ outs.length = bs.length ∧
      t.regs = consumeAll bs s.regs := by
  induction bs generalizing s with
  | nil => exact ⟨[], s, rfl, rfl, rfl⟩
  | cons b bs ih =>
    obtain ⟨outs, t, hrun, hlen, hregs⟩ := ih
      (s.complete (consumeRegs b s.regs) (consumeKind b s.regs) .ok none)
    exact ⟨_, t, observe_feed_cons (exec_consume b 0 s) hrun, congrArg Nat.succ hlen, hregs⟩

theorem consumeAll_cksum {bs : List Byte} {r : Regs} (hlen : bs.length ≤ r.pos.bytesLeft) :
    (consumeAll bs r).cksum.toNat = (r.cksum.toNat + (bs.map BitVec.toNat).sum) % 256 := by
  obtain ⟨outs, t, hrun, hsum⟩ := observe_feed_cksum bs { State.reset with regs := r } hlen
  obtain ⟨outs', t', hrun', -, hregs⟩ := observe_feed bs { State.reset with regs := r }
  cases hrun.symm.trans hrun'
  exact hregs ▸ hsum

/-- The kind that the checksum byte reports, in terms of the registers it leaves. -/
theorem consumeKind_at_checksum {b : Byte} {r : Regs} (hpos : r.pos = .checksum) :
    consumeKind b r =
      if (consumeRegs b r).cksum = 0 then (consumeRegs b r).kindStg else .incomplete := by
  have hsync : r.pos ≠ .sync := by simp [hpos]
  have hcommand : r.pos ≠ .command := by simp [hpos]
  rw [consumeKind, consumeRegs_cksum hsync, consumeRegs_kindStg, if_neg hcommand]
  simp only [hpos, true_and, closesValidFrame_iff]

/-- The rest of a window, whatever its bytes: all but the last report `Incomplete`, and the last one
validates the window (spec/40_parser.md R86). -/
theorem observe_feed_window {bs : List Byte} {s : State} (hpos : s.regs.pos ≠ .sync)
    (hlen : bs.length = s.regs.pos.bytesLeft) : ∃ o t,
      observe (feed bs) s = .next
        (List.replicate (bs.length - 1) (some (consumeResult s.regs .incomplete)) ++ [some o], t) ∧
      t.regs = consumeAll bs s.regs ∧ t.regs.pos = .sync ∧
      o.kind = if (s.regs.cksum.toNat + (bs.map BitVec.toNat).sum) % 256 = 0
        then t.regs.kindStg else .incomplete := by
  obtain rfl | ⟨head, last, rfl⟩ := List.eq_nil_or_concat' bs
  · exact absurd (FramePos.bytesLeft_eq_zero_iff.1 hlen.symm) hpos
  have hhead : head.length + 1 = s.regs.pos.bytesLeft := by simpa using hlen
  obtain ⟨t, hrun, hregs, -⟩ := observe_feed_before_checksum head s (Nat.lt_of_succ_le hhead.le)
  have hchecksum : t.regs.pos = .checksum := by
    have hleft := consumeAll_bytesLeft (bs := head) (r := s.regs) (by omega)
    rw [← hregs] at hleft
    exact FramePos.bytesLeft_eq_one_iff.1 (by omega)
  have hend : consumeRegs last t.regs = consumeAll (head ++ [last]) s.regs := by
    rw [consumeAll_append, ← hregs]
    rfl
  rw [feed_append, List.length_append, List.length_singleton, Nat.add_sub_cancel]
  refine ⟨_, _, observe_append hrun (observe_feed_cons (exec_consume last 0 t) rfl), hend, ?_, ?_⟩
  · rw [State.complete_regs, consumeRegs_pos, hchecksum]
    rfl
  · have hiff : (consumeRegs last t.regs).cksum = 0 ↔
        (s.regs.cksum.toNat + ((head ++ [last]).map BitVec.toNat).sum) % 256 = 0 := by
      rw [hend, ← consumeAll_cksum hlen.le]
      exact BitVec.toNat_inj.symm
    rw [resultOf_kind, consumeKind_at_checksum hchecksum]
    simp only [hiff, State.complete_regs]

/-- Bytes as in R88, of either form, leave the parser at Sync. -/
theorem consumeAll_pos_of_aligning {G : List Byte} {r : Regs}
    (h : (r.pos = .sync ∧ 0xFF ∉ G) ∨ (8 ≤ G.length ∧ 0xFF ∉ G.drop (G.length - 8))) :
    (consumeAll G r).pos = .sync := by
  obtain ⟨hpos, hquiet⟩ | ⟨hlen, hquiet⟩ := h
  · exact consumeAll_pos_of_quiet hquiet (by simp [hpos])
  · rw [← List.take_append_drop (G.length - 8) G, consumeAll_append]
    refine consumeAll_pos_of_quiet hquiet ((FramePos.bytesLeft_le _).trans ?_)
    rw [List.length_drop]
    omega

/-! ### Aligned frames -/

/-- The checksum byte of an aligned frame reports the kind of the command byte, if the frame's
checksum is right (spec/40_parser.md R84). -/
theorem consumeKind_stagedRegs (F : Frame) (r : Regs) :
    consumeKind F.checksum (F.stagedRegs r) =
      if F.sumChecked % 256 = 0 then classify F.cmd else .incomplete := by
  split_ifs with hvalid
  · exact consumeKind_of_closes rfl (F.sumChecked_mod_eq_zero_iff.1 hvalid)
  · exact consumeKind_of_not_closes fun hsum => hvalid (F.sumChecked_mod_eq_zero_iff.2 hsum)

/-- The case in which CONSUME writes the last known concentration, for the checksum byte of an aligned
frame: it is a valid `Reading`. -/
theorem stagedRegs_decodes_iff (F : Frame) (r : Regs) :
    ((F.stagedRegs r).pos = .checksum ∧ foldByte (F.stagedRegs r).cksum F.checksum = 0 ∧
        (F.stagedRegs r).kindStg = .reading) ↔ F.sumChecked % 256 = 0 ∧ F.cmd = 0x86 := by
  rw [F.sumChecked_mod_eq_zero_iff, ← classify_eq_reading_iff]
  exact ⟨fun ⟨_, h⟩ => h, fun h => ⟨rfl, h⟩⟩

/-- Settles O24: the registers before the checksum byte are `Frame.stagedRegs` (`observe_feedFrame`). -/
theorem alignedFrameIsDecoded : Obligations.AlignedFrameIsDecoded := by
  intro s F hpos hF
  obtain ⟨t, hregs, hport, hrun⟩ := observe_feedFrame hpos hF
  rw [hregs] at hrun
  refine ⟨_, _, hrun, ?sync, hport, fun hvalid => ?valid, fun hcorrupt => ?corrupt,
    fun hvalid hcmd => ?reading, fun hnot => ?other, rfl⟩
  case sync =>
    rw [State.complete_regs, consumeRegs_pos]
    rfl
  case valid => rw [resultOf_kind, consumeKind_stagedRegs, if_pos hvalid]
  case corrupt => rw [resultOf_kind, consumeKind_stagedRegs, if_neg hcorrupt]
  case reading =>
    have hdecodes := (stagedRegs_decodes_iff F s.regs).2 ⟨hvalid, hcmd⟩
    have hconc : (F.stagedRegs s.regs).concStg = concentration F.data0 F.data1 :=
      if_pos ((classify_eq_reading_iff F.cmd).2 hcmd)
    rw [State.complete_regs, consumeRegs_lastConc, consumeRegs_lastValid, if_pos hdecodes,
      if_pos hdecodes, hconc]
    exact ⟨concentration_toNat F.data0 F.data1, rfl⟩
  case other =>
    have hkeeps := mt (stagedRegs_decodes_iff F s.regs).1 hnot
    rw [State.complete_regs, consumeRegs_lastConc, consumeRegs_lastValid, if_neg hkeeps,
      if_neg hkeeps]
    exact ⟨rfl, rfl⟩

/-! ### Frames that are sent -/

/-- The bytes that SEND takes from a driven frame with the right checksum parse back to the kind of
its command byte (spec/41_codec.md R101). -/
theorem sentFrame_parses_back {F : Frame} {i : Instr} {s : State} {kind : PacketKind}
    (hpos : s.regs.pos = .sync)
    (he : exec i s = .next (s.complete s.regs .incomplete .ok (some F))) (hF : F.sync = 0xFF)
    (hvalid : F.sumChecked % 256 = 0) (hkind : classify F.cmd = kind)
    (hzero : kind = .reading → F.data0 = 0 ∧ F.data1 = 0) :
    ∃ t o outs u, exec i s = .next t ∧ t.out = some o ∧ (sendBytes o).length = 9 ∧
      observe (feed (sendBytes o)) t = .next (outs, u) ∧
      kindsOf outs = List.replicate 8 (some .incomplete) ++ [some kind] ∧
      (kind = .reading → u.regs.lastConc = 0 ∧ u.regs.lastValid = true) := by
  have hsend : sendBytes (resultOf s.regs .incomplete .ok (some F)) = F.bytes := packedBytes_pack F
  obtain ⟨o, u, hrun, -, -, hreport, -, hreading, -⟩ :=
    alignedFrameIsDecoded (s.complete s.regs .incomplete .ok (some F)) F hpos hF
  rw [feedFrame, ← hsend] at hrun
  refine ⟨_, _, _, u, he, rfl, ?_, hrun, ?_, fun hread => ?_⟩
  · rw [hsend]
    rfl
  · rw [← hkind, ← hreport hvalid]
    rfl
  · obtain ⟨h0, h1⟩ := hzero hread
    obtain ⟨hconc, hset⟩ := hreading hvalid ((classify_eq_reading_iff _).1 (hkind.trans hread))
    rw [h0, h1] at hconc
    exact ⟨BitVec.eq_of_toNat_eq hconc, hset⟩

/-! ### The statements -/

/-- Settles O25: a packet is reported exactly if offsets 1 to 8 sum to 0 (`alignedFrameIsDecoded`), and
one byte brings the sum of offsets 1 to 7 there. -/
theorem oneChecksumByteIsAccepted : Obligations.OneChecksumByteIsAccepted := by
  intro s F b hpos hF
  obtain ⟨o, t, hrun, hsync, -, hvalid, hcorrupt, -⟩ :=
    alignedFrameIsDecoded s { F with checksum := b } hpos hF
  have hsum : ({ F with checksum := b } : Frame).sumChecked = F.sumBody + b.toNat := rfl
  have hb := b.isLt
  rw [hsum] at hvalid hcorrupt
  refine ⟨_, o, t, hrun, List.length_replicate, hsync, fun hkind => ?_, fun hck => ?_⟩
  · have hzero := not_imp_comm.1 hcorrupt hkind
    omega
  · rw [hvalid (by omega)]
    exact classify_ne_incomplete F.cmd

/-- Settles O26: `observe_feed_window`, with the kind that the window has staged by its end. -/
theorem misalignedBytesEndTheWindow : Obligations.MisalignedBytesEndTheWindow := by
  intro bs s hpos hlen
  have hindex := FramePos.index_add_bytesLeft hpos
  obtain ⟨o, t, hrun, hregs, hsync, hkind⟩ := observe_feed_window (bs := bs) hpos (by omega)
  rw [hregs] at hkind
  refine ⟨_, o, t, hrun, fun p hp => ⟨_, List.eq_of_mem_replicate hp, rfl⟩, hsync,
    fun hne => hkind.trans (if_neg hne), fun hzero => ?_⟩
  rw [hkind, if_pos hzero]
  refine ⟨fun haddress c hc => ?address, fun hcommand c hc => ?command, fun hstaged => ?staged⟩
  case address =>
    match bs with
    | a :: d :: rest =>
      obtain rfl : d = c := Option.some.inj hc
      rw [consumeAll_cons]
      refine consumeAll_kindStg_from_command ?_ ?_
      · rw [consumeRegs_pos, haddress]
        rfl
      · simp [haddress, FramePos.index] at hlen
        omega
  case command =>
    match bs with
    | d :: rest =>
      obtain rfl : d = c := Option.some.inj hc
      refine consumeAll_kindStg_from_command hcommand ?_
      simp [hcommand, FramePos.index] at hlen
      omega
  case staged => exact consumeAll_kindStg (by omega) (by omega)

/-- Settles O27: the bytes left of the window count down by one with each byte
(`consumeAll_bytesLeft`). -/
theorem recoveryBound : Obligations.RecoveryBound := by
  refine ⟨fun bs s hpos hlen => ?midframe, fun bs s hpos hlen => ?aligned⟩
  case midframe =>
    obtain ⟨outs, t, hrun, -, hregs⟩ := observe_feed bs s
    have hindex := FramePos.index_add_bytesLeft hpos
    have hleft := consumeAll_bytesLeft (bs := bs) (r := s.regs) (by omega)
    rw [← hregs] at hleft
    refine ⟨outs, t, hrun, fun hall => ?_, fun hfewer => ?_⟩
    · exact FramePos.bytesLeft_eq_zero_iff.1 (by omega)
    · have hinside : t.regs.pos ≠ .sync := FramePos.ne_sync_of_lt_bytesLeft (n := 0) (by omega)
      have := FramePos.index_add_bytesLeft hinside
      omega
  case aligned =>
    obtain ⟨outs, t, hrun, -, hregs⟩ := observe_feed (0xFF :: bs) s
    rw [consumeAll_cons, consumeRegs_sync_of_eq hpos rfl] at hregs
    have hleft := consumeAll_bytesLeft (bs := bs) (r := (s.regs.setCksum 0x00).setPos .address) hlen.le
    rw [← hregs, hlen] at hleft
    exact ⟨outs, t, hrun, FramePos.bytesLeft_eq_zero_iff.1 (Nat.add_right_cancel hleft)⟩

/-- Settles O28: the quiet bytes end at Sync (`consumeAll_pos_of_aligning`), where the frame is aligned
(`alignedFrameIsDecoded`). -/
theorem quietBytesAlign : Obligations.QuietBytesAlign := by
  intro G s hG
  obtain ⟨outs, t, hrun, hlen, hregs⟩ := observe_feed G s
  have hpos : t.regs.pos = .sync := hregs ▸ consumeAll_pos_of_aligning hG
  refine ⟨⟨outs, t, hrun, hpos⟩, fun F hF hvalid => ?_⟩
  obtain ⟨o, u, hframe, hsync, -, hkind, -, hreading, -⟩ := alignedFrameIsDecoded t F hpos hF
  refine ⟨outs ++ List.replicate 8 (some (consumeResult t.regs .incomplete)), o, u, ?_, ?_,
    hkind hvalid, hsync, hreading hvalid⟩
  · rw [List.append_assoc]
    exact observe_append hrun hframe
  · rw [List.length_append, List.length_replicate, hlen]

/-- Settles O34: `ck` is the one byte that brings the body's sum to zero (`Frame.bodySum_add_ck`), and
the sync byte adds 0xFF. -/
theorem validFrameHasItsChecksum : Obligations.ValidFrameHasItsChecksum := by
  refine fun F hF => ⟨?_, fun hvalid => ?_⟩
  · rw [F.sumChecked_mod_eq_zero_iff, ← F.bodySum_add_ck]
    exact add_right_inj F.bodySum
  · have hbytes : (F.bytes.map BitVec.toNat).sum = 0xFF + F.sumChecked := by
      simp [Frame.bytes, Frame.sumChecked, hF, Nat.add_assoc]
    omega

/-- Settles O39: each codec operation drives a built frame, which SEND's bytes parse back
(`sentFrame_parses_back`). -/
theorem codecFramesParseBack : Obligations.CodecFramesParseBack := by
  rintro i kind s hpos (⟨⟨rsv, rfl⟩, rfl⟩ | ⟨⟨rsv, rfl⟩, rfl⟩ | ⟨⟨r, rfl, hr⟩, rfl⟩)
  · exact sentFrame_parses_back (F := requestReadingFrame) hpos rfl rfl (by decide) rfl
      fun _ => ⟨rfl, rfl⟩
  · exact sentFrame_parses_back (F := disableAbcFrame) hpos rfl rfl (by decide) rfl
      fun h => by cases h
  · exact sentFrame_parses_back (F := setRangeFrame r) hpos
      (execEncSetRange_valid r s ((rangeIsValid_iff_toNat r).2 hr)) rfl
      (buildFrame_sumChecked _ _ _ _ _ _) rfl fun h => by cases h

end Sys2Proof.Machine
